-- ==== Sys2Proof/Word.lean ====
section
/-! DEFINITION. The widths the spec uses as bits (R6, R7 of 00_scope.md): bytes, 16-bit protocol values and the
32-bit registers of the window. All values are unsigned. -/

namespace Sys2Proof

/-- A byte (R6). -/
abbrev Byte := BitVec 8

/-- A 16-bit protocol value: a checksum or a port (R5, R28, R31). -/
abbrev Half := BitVec 16

/-- A 32-bit register, bus datum or shift register (R5, R22, R37). -/
abbrev Word := BitVec 32

end Sys2Proof
end

