-- ==== Sys2Proof/Config.lean ====
section
/-! DEFINITION. The parameters of R5 (00_scope.md) that the spec leaves OPEN and the free values of
93_implementation_defined.md. Each is a constant with no body, so that no proof can see what it is: what is proved
holds for every value. The fixed parameters of R5 (widths, lengths) are plain numbers. -/

namespace Sys2Proof.Config

/-- `draw(IDLE_TX_WORD)` of R123 (I1): the bits of a word that starts with no pending word, one draw per word.
The argument is the model's draw counter. DESIGN CHOICE: see log 2. -/
opaque idleTxWord : Nat → Word

/-- `draw(SO_DISABLED)` of R121 (I2): the level of SO at a pulse while EN = 0, one draw per pulse. The argument is
the model's draw counter. DESIGN CHOICE: see log 3. -/
opaque soDisabled : Nat → Bool

/-- Which 128-byte window of the host's address space holds the block; see `blockBase`. -/
opaque blockIndex : Nat

/-- `BLOCK_BASE` (R5, D2, I4): any 128-byte-aligned host address. -/
def blockBase : Nat := 128 * blockIndex

/-- `IRQ_LINE` (R205, D31, I5): the host interrupt input that the IRQ output drives. -/
opaque irqLine : Nat

/-- An edge of the peer's clock SCK (D7). -/
inductive Edge where
  | rising
  | falling
  deriving DecidableEq, Repr, Inhabited

/-- `EDGE_MAP` (R5, D7, I6): the edge that drives SO and the edge that samples SI. -/
structure EdgeMap where
  drivesSo : Edge
  samplesSi : Edge
  deriving DecidableEq, Repr, Inhabited

/-- `EDGE_MAP` of this platform. No rule depends on it (R236), so no definition of the model reads it. -/
opaque edgeMap : EdgeMap

/-- How far `MAX_FRAME_SIZE` exceeds 3; see `maxFrameSize`. -/
opaque maxFrameExcess : Nat

/-- `MAX_FRAME_SIZE` (R5, D26, I7): an integer of at least 3. -/
def maxFrameSize : Nat := 3 + maxFrameExcess

/-- `session_exclusive` of gate 3 (R186, I9): which command ids must not run during an active session. -/
opaque sessionExclusive : Byte → Bool

/-- The tag bytes of the three address variants (R163): a parameter of the model. -/
structure Tags where
  none : Byte
  ipv4 : Byte
  ipv6 : Byte
  deriving DecidableEq, Repr

/-- The spec's default tag values, `[from general knowledge, not in source]` (R163, G1). The machine does not use
them: its tags are `tags`, of which nothing is known but that they differ. -/
def Tags.default : Tags := { none := 0x00, ipv4 := 0x01, ipv6 := 0x02 }

/-- The tags are pairwise distinct (R163). -/
def Tags.distinct (t : Tags) : Bool := t.none != t.ipv4 && t.none != t.ipv6 && t.ipv4 != t.ipv6

/-- The tags made from three freely chosen bytes: a byte already taken gives way to the next one that is not. Every
triple of pairwise distinct bytes is made from itself. -/
def Tags.ofPicks (a b c : Byte) : Tags :=
  let v4 := if b = a then b + 1 else b
  let v6 := if c ≠ a ∧ c ≠ v4 then c else if c + 1 ≠ a ∧ c + 1 ≠ v4 then c + 1 else c + 2
  { none := a, ipv4 := v4, ipv6 := v6 }

/-- The free choice behind `tags`. -/
opaque tagPickNone : Byte
/-- The free choice behind `tags`. -/
opaque tagPickIpv4 : Byte
/-- The free choice behind `tags`. -/
opaque tagPickIpv6 : Byte

/-- `TAG_NONE`, `TAG_IPV4`, `TAG_IPV6` (R163, I10): pairwise distinct, otherwise free. DESIGN CHOICE: see log 1. -/
def tags : Tags := Tags.ofPicks tagPickNone tagPickIpv4 tagPickIpv6

end Sys2Proof.Config
end

