-- ==== Sys2Proof/Syntax.lean ====
section
/-! DEFINITION. The block's operations (R70, R71, R79 of 30_encoding.md): one constructor per row of
spec/opcode_table.json. Beside them the events that reach the block (R8, R55), and the data the codec and the frame
check work on (R75, R180, R183). -/

namespace Sys2Proof

/-- The operations of the block. A read has no operand, a write its 32-bit data operand `v` (R70), a pulse its input
bit `si` (R71). -/
inductive Instr where
  /-- RD.LCT_CTRL: host read of LCT_CTRL (R100). -/
  | rdLctCtrl
  /-- RD.LCT_STATUS: host read of LCT_STATUS (R107). -/
  | rdLctStatus
  /-- RD.LCT_RXDATA: host read of LCT_RXDATA (R101). -/
  | rdLctRxdata
  /-- RD.LCT_TXDATA: host read of LCT_TXDATA (R108). -/
  | rdLctTxdata
  /-- RD.LCT_RESET: host read of LCT_RESET (R108). -/
  | rdLctReset
  /-- RD.LCT_CLEAR: host read of LCT_CLEAR (R108). -/
  | rdLctClear
  /-- RD.RSVD_18: host read of RSVD_18 (R53). -/
  | rdRsvd18
  /-- RD.RSVD_1C: host read of RSVD_1C (R53). -/
  | rdRsvd1C
  /-- RD.CK_CLEAR: host read of CK_CLEAR (R146). -/
  | rdCkClear
  /-- RD.CK_DATA: host read of CK_DATA (R146). -/
  | rdCkData
  /-- RD.CK_SUM: host read of CK_SUM (R142). -/
  | rdCkSum
  /-- RD.CK_EXPECT: host read of CK_EXPECT (R144). -/
  | rdCkExpect
  /-- RD.CK_STATUS: host read of CK_STATUS (R145). -/
  | rdCkStatus
  /-- RD.RSVD_34: host read of RSVD_34 (R53). -/
  | rdRsvd34
  /-- RD.RSVD_38: host read of RSVD_38 (R53). -/
  | rdRsvd38
  /-- RD.RSVD_3C: host read of RSVD_3C (R53). -/
  | rdRsvd3C
  /-- RD.AD_TYPE: host read of AD_TYPE (R166). -/
  | rdAdType
  /-- RD.AD_PORT: host read of AD_PORT (R166). -/
  | rdAdPort
  /-- RD.AD_HOST0: host read of AD_HOST0 (R166). -/
  | rdAdHost0
  /-- RD.AD_HOST1: host read of AD_HOST1 (R166). -/
  | rdAdHost1
  /-- RD.AD_HOST2: host read of AD_HOST2 (R166). -/
  | rdAdHost2
  /-- RD.AD_HOST3: host read of AD_HOST3 (R166). -/
  | rdAdHost3
  /-- RD.AD_LEN: host read of AD_LEN (R166). -/
  | rdAdLen
  /-- RD.AD_RESULT: host read of AD_RESULT (R166). -/
  | rdAdResult
  /-- RD.AD_BUF0: host read of AD_BUF0 (R166). -/
  | rdAdBuf0
  /-- RD.AD_BUF1: host read of AD_BUF1 (R166). -/
  | rdAdBuf1
  /-- RD.AD_BUF2: host read of AD_BUF2 (R166). -/
  | rdAdBuf2
  /-- RD.AD_BUF3: host read of AD_BUF3 (R166). -/
  | rdAdBuf3
  /-- RD.AD_BUF4: host read of AD_BUF4 (R166). -/
  | rdAdBuf4
  /-- RD.AD_ENCODE: host read of AD_ENCODE (R168). -/
  | rdAdEncode
  /-- RD.AD_DECODE: host read of AD_DECODE (R168). -/
  | rdAdDecode
  /-- RD.RSVD_7C: host read of RSVD_7C (R53). -/
  | rdRsvd7C
  /-- WR.LCT_CTRL: host write of LCT_CTRL (R103). -/
  | wrLctCtrl (v : Word)
  /-- WR.LCT_STATUS: host write of LCT_STATUS (R109). -/
  | wrLctStatus (v : Word)
  /-- WR.LCT_RXDATA: host write of LCT_RXDATA (R109). -/
  | wrLctRxdata (v : Word)
  /-- WR.LCT_TXDATA: host write of LCT_TXDATA (R102). -/
  | wrLctTxdata (v : Word)
  /-- WR.LCT_RESET: host write of LCT_RESET (R104). -/
  | wrLctReset (v : Word)
  /-- WR.LCT_CLEAR: host write of LCT_CLEAR (R105). -/
  | wrLctClear (v : Word)
  /-- WR.RSVD_18: host write of RSVD_18 (R53). -/
  | wrRsvd18 (v : Word)
  /-- WR.RSVD_1C: host write of RSVD_1C (R53). -/
  | wrRsvd1C (v : Word)
  /-- WR.CK_CLEAR: host write of CK_CLEAR (R140). -/
  | wrCkClear (v : Word)
  /-- WR.CK_DATA: host write of CK_DATA (R141). -/
  | wrCkData (v : Word)
  /-- WR.CK_SUM: host write of CK_SUM (R147). -/
  | wrCkSum (v : Word)
  /-- WR.CK_EXPECT: host write of CK_EXPECT (R143). -/
  | wrCkExpect (v : Word)
  /-- WR.CK_STATUS: host write of CK_STATUS (R147). -/
  | wrCkStatus (v : Word)
  /-- WR.RSVD_34: host write of RSVD_34 (R53). -/
  | wrRsvd34 (v : Word)
  /-- WR.RSVD_38: host write of RSVD_38 (R53). -/
  | wrRsvd38 (v : Word)
  /-- WR.RSVD_3C: host write of RSVD_3C (R53). -/
  | wrRsvd3C (v : Word)
  /-- WR.AD_TYPE: host write of AD_TYPE (R167). -/
  | wrAdType (v : Word)
  /-- WR.AD_PORT: host write of AD_PORT (R167). -/
  | wrAdPort (v : Word)
  /-- WR.AD_HOST0: host write of AD_HOST0 (R167). -/
  | wrAdHost0 (v : Word)
  /-- WR.AD_HOST1: host write of AD_HOST1 (R167). -/
  | wrAdHost1 (v : Word)
  /-- WR.AD_HOST2: host write of AD_HOST2 (R167). -/
  | wrAdHost2 (v : Word)
  /-- WR.AD_HOST3: host write of AD_HOST3 (R167). -/
  | wrAdHost3 (v : Word)
  /-- WR.AD_LEN: host write of AD_LEN (R167). -/
  | wrAdLen (v : Word)
  /-- WR.AD_RESULT: host write of AD_RESULT (R168). -/
  | wrAdResult (v : Word)
  /-- WR.AD_BUF0: host write of AD_BUF0 (R167). -/
  | wrAdBuf0 (v : Word)
  /-- WR.AD_BUF1: host write of AD_BUF1 (R167). -/
  | wrAdBuf1 (v : Word)
  /-- WR.AD_BUF2: host write of AD_BUF2 (R167). -/
  | wrAdBuf2 (v : Word)
  /-- WR.AD_BUF3: host write of AD_BUF3 (R167). -/
  | wrAdBuf3 (v : Word)
  /-- WR.AD_BUF4: host write of AD_BUF4 (R167). -/
  | wrAdBuf4 (v : Word)
  /-- WR.AD_ENCODE: host write of AD_ENCODE (R160). -/
  | wrAdEncode (v : Word)
  /-- WR.AD_DECODE: host write of AD_DECODE (R161). -/
  | wrAdDecode (v : Word)
  /-- WR.RSVD_7C: host write of RSVD_7C (R53). -/
  | wrRsvd7C (v : Word)
  /-- PULSE: one clock pulse of the peer with input bit `si` (Format P, R120 and R121). -/
  | pulse (si : Bool)
  deriving DecidableEq, Repr

/-- The two operation formats: A, a host access (R70), and P, a pulse of the peer (R71). -/
inductive Format where
  | a
  | p
  deriving DecidableEq, Repr

/-- An operation in encoded form: its format and its bytes, lowest address first (log 8 lays the bytes out). -/
structure Packet where
  format : Format
  bytes : List Byte
  deriving DecidableEq, Repr

/-- The direction of a host access (R70, DIR). -/
inductive Dir where
  | read
  | write
  deriving DecidableEq, Repr

/-- The width of a host access as the platform presents it (R51, R52). -/
inductive AccessWidth where
  | bits8
  | bits16
  | bits32
  deriving DecidableEq, Repr

/-- A host access as the platform presents it: at an absolute host address, of any width (R51, R52). The data of a
read is not looked at. -/
structure HostAccess where
  dir : Dir
  addr : Nat
  width : AccessWidth
  data : Word
  deriving DecidableEq, Repr

/-- What can happen to the block (R8, R55): an operation in encoded form, a host access at an absolute address, or
the power-on reset event (R220). -/
inductive Input where
  | encoded (p : Packet)
  | hostAccess (a : HostAccess)
  | powerOn
  deriving DecidableEq, Repr

/-- The sub-block that holds the register an operation reaches (the sub-block column of R22); a reserved offset
belongs to none, and the pulse to LCT. -/
inductive SubBlock where
  | lct
  | cas
  | none
  deriving DecidableEq, Repr

/-- A network address record (R75, glossary of 00_scope.md). -/
inductive AddressRecord where
  | none
  | ipv4 (port : Half) (host : Vector Byte 4)
  | ipv6 (port : Half) (host : Vector Byte 16)
  deriving DecidableEq, Repr

/-- The arguments of `frame_check` (R180). -/
structure FrameCall where
  buf : List Byte
  requested : Nat
  delivered : Nat
  deriving DecidableEq, Repr

/-- The outcome of `frame_check` (R180, R181): the accepted command id and payload, a silent drop, or the model's
refusal of a call that breaks the precondition. -/
inductive FrameOutcome where
  | accept (commandId : Byte) (payload : List Byte)
  | drop
  | refused
  deriving DecidableEq, Repr

/-- The sub-block of each operation (R22). -/
def Instr.subBlock : Instr → SubBlock
  | .rdLctCtrl => .lct
  | .rdLctStatus => .lct
  | .rdLctRxdata => .lct
  | .rdLctTxdata => .lct
  | .rdLctReset => .lct
  | .rdLctClear => .lct
  | .rdRsvd18 => .none
  | .rdRsvd1C => .none
  | .rdCkClear => .cas
  | .rdCkData => .cas
  | .rdCkSum => .cas
  | .rdCkExpect => .cas
  | .rdCkStatus => .cas
  | .rdRsvd34 => .none
  | .rdRsvd38 => .none
  | .rdRsvd3C => .none
  | .rdAdType => .cas
  | .rdAdPort => .cas
  | .rdAdHost0 => .cas
  | .rdAdHost1 => .cas
  | .rdAdHost2 => .cas
  | .rdAdHost3 => .cas
  | .rdAdLen => .cas
  | .rdAdResult => .cas
  | .rdAdBuf0 => .cas
  | .rdAdBuf1 => .cas
  | .rdAdBuf2 => .cas
  | .rdAdBuf3 => .cas
  | .rdAdBuf4 => .cas
  | .rdAdEncode => .cas
  | .rdAdDecode => .cas
  | .rdRsvd7C => .none
  | .wrLctCtrl _ => .lct
  | .wrLctStatus _ => .lct
  | .wrLctRxdata _ => .lct
  | .wrLctTxdata _ => .lct
  | .wrLctReset _ => .lct
  | .wrLctClear _ => .lct
  | .wrRsvd18 _ => .none
  | .wrRsvd1C _ => .none
  | .wrCkClear _ => .cas
  | .wrCkData _ => .cas
  | .wrCkSum _ => .cas
  | .wrCkExpect _ => .cas
  | .wrCkStatus _ => .cas
  | .wrRsvd34 _ => .none
  | .wrRsvd38 _ => .none
  | .wrRsvd3C _ => .none
  | .wrAdType _ => .cas
  | .wrAdPort _ => .cas
  | .wrAdHost0 _ => .cas
  | .wrAdHost1 _ => .cas
  | .wrAdHost2 _ => .cas
  | .wrAdHost3 _ => .cas
  | .wrAdLen _ => .cas
  | .wrAdResult _ => .cas
  | .wrAdBuf0 _ => .cas
  | .wrAdBuf1 _ => .cas
  | .wrAdBuf2 _ => .cas
  | .wrAdBuf3 _ => .cas
  | .wrAdBuf4 _ => .cas
  | .wrAdEncode _ => .cas
  | .wrAdDecode _ => .cas
  | .wrRsvd7C _ => .none
  | .pulse _ => .lct

end Sys2Proof
end

