-- ==== Sys2Proof/Decode.lean ====
section
/-! DEFINITION. Reading operations from bytes and writing them as bytes (30_encoding.md sections 1 and 3). A Format A
packet is the 9-bit descriptor of R70 in two bytes, low byte first, its seven upper bits 0, and for a write the
32-bit operand in four bytes, low byte first. A Format P packet is one byte: `si` in bit 0, the other bits 0. (The
layout in bytes is the model's: log 8.) -/

namespace Sys2Proof

/-- Why bytes are no operation of the block. -/
inductive DecodeError where
  /-- The packet ends before the operation does. -/
  | truncated
  /-- Bytes follow the operation. -/
  | trailingBytes
  /-- A bit outside the fields of the format is 1 (R70, R71). -/
  | reservedBits
  /-- `OFF` is not the offset of a register: misaligned, or above 0x7C (R52, R80). -/
  | noRegister
  deriving DecidableEq, Repr

/-- The read of the register at `OFF` (R79, DIR = 0). -/
def readInstr (off : Byte) : Option Instr :=
  match off.toNat with
  | 0x00 => some .rdLctCtrl
  | 0x04 => some .rdLctStatus
  | 0x08 => some .rdLctRxdata
  | 0x0C => some .rdLctTxdata
  | 0x10 => some .rdLctReset
  | 0x14 => some .rdLctClear
  | 0x18 => some .rdRsvd18
  | 0x1C => some .rdRsvd1C
  | 0x20 => some .rdCkClear
  | 0x24 => some .rdCkData
  | 0x28 => some .rdCkSum
  | 0x2C => some .rdCkExpect
  | 0x30 => some .rdCkStatus
  | 0x34 => some .rdRsvd34
  | 0x38 => some .rdRsvd38
  | 0x3C => some .rdRsvd3C
  | 0x40 => some .rdAdType
  | 0x44 => some .rdAdPort
  | 0x48 => some .rdAdHost0
  | 0x4C => some .rdAdHost1
  | 0x50 => some .rdAdHost2
  | 0x54 => some .rdAdHost3
  | 0x58 => some .rdAdLen
  | 0x5C => some .rdAdResult
  | 0x60 => some .rdAdBuf0
  | 0x64 => some .rdAdBuf1
  | 0x68 => some .rdAdBuf2
  | 0x6C => some .rdAdBuf3
  | 0x70 => some .rdAdBuf4
  | 0x74 => some .rdAdEncode
  | 0x78 => some .rdAdDecode
  | 0x7C => some .rdRsvd7C
  | _ => none

/-- The write of `v` to the register at `OFF` (R79, DIR = 1). -/
def writeInstr (off : Byte) (v : Word) : Option Instr :=
  match off.toNat with
  | 0x00 => some (.wrLctCtrl v)
  | 0x04 => some (.wrLctStatus v)
  | 0x08 => some (.wrLctRxdata v)
  | 0x0C => some (.wrLctTxdata v)
  | 0x10 => some (.wrLctReset v)
  | 0x14 => some (.wrLctClear v)
  | 0x18 => some (.wrRsvd18 v)
  | 0x1C => some (.wrRsvd1C v)
  | 0x20 => some (.wrCkClear v)
  | 0x24 => some (.wrCkData v)
  | 0x28 => some (.wrCkSum v)
  | 0x2C => some (.wrCkExpect v)
  | 0x30 => some (.wrCkStatus v)
  | 0x34 => some (.wrRsvd34 v)
  | 0x38 => some (.wrRsvd38 v)
  | 0x3C => some (.wrRsvd3C v)
  | 0x40 => some (.wrAdType v)
  | 0x44 => some (.wrAdPort v)
  | 0x48 => some (.wrAdHost0 v)
  | 0x4C => some (.wrAdHost1 v)
  | 0x50 => some (.wrAdHost2 v)
  | 0x54 => some (.wrAdHost3 v)
  | 0x58 => some (.wrAdLen v)
  | 0x5C => some (.wrAdResult v)
  | 0x60 => some (.wrAdBuf0 v)
  | 0x64 => some (.wrAdBuf1 v)
  | 0x68 => some (.wrAdBuf2 v)
  | 0x6C => some (.wrAdBuf3 v)
  | 0x70 => some (.wrAdBuf4 v)
  | 0x74 => some (.wrAdEncode v)
  | 0x78 => some (.wrAdDecode v)
  | 0x7C => some (.wrRsvd7C v)
  | _ => none

/-- Four bytes, low byte first, as a 32-bit value. -/
def wordOfBytes (b0 b1 b2 b3 : Byte) : Word := b3 ++ b2 ++ b1 ++ b0

/-- A 32-bit value as four bytes, low byte first. -/
def bytesOfWord (v : Word) : List Byte :=
  [v.extractLsb' 0 8, v.extractLsb' 8 8, v.extractLsb' 16 8, v.extractLsb' 24 8]

/-- The operation a descriptor and the bytes after it stand for (R70, R79), with the bytes left over. -/
def decodeFormatA : List Byte → Except DecodeError (Instr × List Byte)
  | off :: hi :: rest =>
    if hi = 0 then
      match readInstr off with
      | some i => .ok (i, rest)
      | none => .error .noRegister
    else if hi = 1 then
      match rest with
      | b0 :: b1 :: b2 :: b3 :: rest' =>
        match writeInstr off (wordOfBytes b0 b1 b2 b3) with
        | some i => .ok (i, rest')
        | none => .error .noRegister
      | _ => .error .truncated
    else .error .reservedBits
  | _ => .error .truncated

/-- The pulse a byte stands for (R71), with the bytes left over. -/
def decodeFormatP : List Byte → Except DecodeError (Instr × List Byte)
  | b :: rest =>
    if b = 0 then .ok (.pulse false, rest)
    else if b = 1 then .ok (.pulse true, rest)
    else .error .reservedBits
  | [] => .error .truncated

/-- The decoder: one whole packet is one operation. -/
def decode (p : Packet) : Except DecodeError Instr :=
  match (match p.format with
    | .a => decodeFormatA p.bytes
    | .p => decodeFormatP p.bytes) with
  | .ok (i, []) => .ok i
  | .ok (_, _ :: _) => .error .trailingBytes
  | .error e => .error e

/-- The Format A packet of a read at `off` (R70). -/
def readPacket (off : Byte) : Packet := { format := .a, bytes := [off, 0] }

/-- The Format A packet of a write of `v` at `off` (R70). -/
def writePacket (off : Byte) (v : Word) : Packet := { format := .a, bytes := off :: 1 :: bytesOfWord v }

/-- The Format P packet of a pulse (R71). -/
def pulsePacket (si : Bool) : Packet := { format := .p, bytes := [if si then 1 else 0] }

/-- The encoder: the packet of an operation, from the descriptors of R79. -/
def encode : Instr → Packet
  | .rdLctCtrl => readPacket 0x00
  | .rdLctStatus => readPacket 0x04
  | .rdLctRxdata => readPacket 0x08
  | .rdLctTxdata => readPacket 0x0C
  | .rdLctReset => readPacket 0x10
  | .rdLctClear => readPacket 0x14
  | .rdRsvd18 => readPacket 0x18
  | .rdRsvd1C => readPacket 0x1C
  | .rdCkClear => readPacket 0x20
  | .rdCkData => readPacket 0x24
  | .rdCkSum => readPacket 0x28
  | .rdCkExpect => readPacket 0x2C
  | .rdCkStatus => readPacket 0x30
  | .rdRsvd34 => readPacket 0x34
  | .rdRsvd38 => readPacket 0x38
  | .rdRsvd3C => readPacket 0x3C
  | .rdAdType => readPacket 0x40
  | .rdAdPort => readPacket 0x44
  | .rdAdHost0 => readPacket 0x48
  | .rdAdHost1 => readPacket 0x4C
  | .rdAdHost2 => readPacket 0x50
  | .rdAdHost3 => readPacket 0x54
  | .rdAdLen => readPacket 0x58
  | .rdAdResult => readPacket 0x5C
  | .rdAdBuf0 => readPacket 0x60
  | .rdAdBuf1 => readPacket 0x64
  | .rdAdBuf2 => readPacket 0x68
  | .rdAdBuf3 => readPacket 0x6C
  | .rdAdBuf4 => readPacket 0x70
  | .rdAdEncode => readPacket 0x74
  | .rdAdDecode => readPacket 0x78
  | .rdRsvd7C => readPacket 0x7C
  | .wrLctCtrl v => writePacket 0x00 v
  | .wrLctStatus v => writePacket 0x04 v
  | .wrLctRxdata v => writePacket 0x08 v
  | .wrLctTxdata v => writePacket 0x0C v
  | .wrLctReset v => writePacket 0x10 v
  | .wrLctClear v => writePacket 0x14 v
  | .wrRsvd18 v => writePacket 0x18 v
  | .wrRsvd1C v => writePacket 0x1C v
  | .wrCkClear v => writePacket 0x20 v
  | .wrCkData v => writePacket 0x24 v
  | .wrCkSum v => writePacket 0x28 v
  | .wrCkExpect v => writePacket 0x2C v
  | .wrCkStatus v => writePacket 0x30 v
  | .wrRsvd34 v => writePacket 0x34 v
  | .wrRsvd38 v => writePacket 0x38 v
  | .wrRsvd3C v => writePacket 0x3C v
  | .wrAdType v => writePacket 0x40 v
  | .wrAdPort v => writePacket 0x44 v
  | .wrAdHost0 v => writePacket 0x48 v
  | .wrAdHost1 v => writePacket 0x4C v
  | .wrAdHost2 v => writePacket 0x50 v
  | .wrAdHost3 v => writePacket 0x54 v
  | .wrAdLen v => writePacket 0x58 v
  | .wrAdResult v => writePacket 0x5C v
  | .wrAdBuf0 v => writePacket 0x60 v
  | .wrAdBuf1 v => writePacket 0x64 v
  | .wrAdBuf2 v => writePacket 0x68 v
  | .wrAdBuf3 v => writePacket 0x6C v
  | .wrAdBuf4 v => writePacket 0x70 v
  | .wrAdEncode v => writePacket 0x74 v
  | .wrAdDecode v => writePacket 0x78 v
  | .wrRsvd7C v => writePacket 0x7C v
  | .pulse si => pulsePacket si

/-- The `n` low bytes of `w`, lowest first. -/
def lowBytes : Nat → Nat → List Byte
  | 0, _ => []
  | n + 1, w => BitVec.ofNat 8 w :: lowBytes n (w / 256)

/-- The packet of the table word `w` of `nbits` bits. A word of at most 8 bits is a Format P byte, for the row PULSE
gives no bits of its own (log 8). A longer one is a Format A descriptor, followed, when DIR (bit 8) is 1, by its
operand, whose bits above `nbits` are 0. -/
def tablePacket (nbits w : Nat) : Packet :=
  if nbits ≤ 8 then { format := .p, bytes := lowBytes 1 w }
  else { format := .a, bytes := lowBytes (max ((nbits + 7) / 8) (if w.testBit 8 then 6 else 2)) w }

/-- The operation the decoder reads from the table word `w` of `nbits` bits, numbered as spec/opcode_table.json
numbers them. -/
def decodeTableWord (nbits w : Nat) : Option Instr := (decode (tablePacket nbits w)).toOption

end Sys2Proof
end

