-- ==== Sys2Proof/Machine/State.lean ====
section
/-! DEFINITION. What the block holds (10_state.md): the transport's state, the codec's state, and beside them three
fields of the model's own. Then the reset values (R41), the plainest updates, and the reasons a step can stop. -/

namespace Sys2Proof.Machine

/-- The state of LCT, the link-cable transport (R23, R37). -/
structure Lct where
  /-- LCT_CTRL bit 0: the shift state machine accepts pulses (R23). -/
  en : Bool
  /-- LCT_CTRL bit 1: words have 32 bits, not 8 (R23). -/
  w32 : Bool
  /-- LCT_CTRL bit 2: the word-received interrupt request is enabled (R23). -/
  ie : Bool
  /-- A received word is held and not consumed (R24). -/
  rxv : Bool
  /-- A word to send is pending (R24). -/
  txp : Bool
  /-- The bits of the current word exchanged so far (R24, R37). -/
  bitcnt : BitVec 5
  /-- The receive shift register; sampled bits enter at bit 0 (R37). -/
  rxsr : Word
  /-- The transmit shift register; bits leave from bit 31 (R37). -/
  txsr : Word
  /-- The last completed received word (R37). -/
  rxbuf : Word
  /-- The pending word to send, left-aligned (R37). -/
  txbuf : Word
  deriving DecidableEq, Repr

/-- The state of CAS, the checksum unit and the address serializer (R38). -/
structure Cas where
  /-- The checksum accumulator (R28). -/
  acc : Half
  /-- The expected checksum (R28). -/
  expect : Half
  /-- The record's variant: 0 None, 1 IPv4, 2 IPv6, 3 no variant (R30). -/
  type : BitVec 2
  /-- The record's port as a number (R31). -/
  port : Half
  /-- The record's host bytes `HOST[0..15]` (R32). -/
  host : Vector Byte 16
  /-- The number of valid bytes at the start of `BUF` (R33). -/
  len : Byte
  /-- The bytes consumed by the last decode (R34). -/
  result : Byte
  /-- The serial byte buffer `BUF[0..19]` (R35). -/
  buf : Vector Byte 20
  deriving DecidableEq, Repr

/-- What one step gives besides the next state (R9, R39): a read its 32-bit result, a pulse its bit `so`. -/
inductive Output where
  | nothing
  | readData (v : Word)
  | serialOut (so : Bool)
  deriving DecidableEq, Repr

/-- The machine. `lct` and `cas` are what the spec gives the block; they have no state in common (R2). The other
fields are the model's own: `out` is the result of the last step (log 7), `draws` counts the free values drawn so far
(log 4), `inputs` are the events that come next (log 5). -/
structure State where
  lct : Lct
  cas : Cas
  out : Output
  draws : Nat
  inputs : List Input
  deriving DecidableEq, Repr

/-- LCT after the power-on reset event (R41, R220): every field 0. -/
def Lct.reset : Lct :=
  { en := false, w32 := false, ie := false, rxv := false, txp := false, bitcnt := 0
    rxsr := 0, txsr := 0, rxbuf := 0, txbuf := 0 }

/-- CAS after the power-on reset event (R41, R220): every field 0. -/
def Cas.reset : Cas :=
  { acc := 0, expect := 0, type := 0, port := 0, host := Vector.replicate 16 0, len := 0, result := 0
    buf := Vector.replicate 20 0 }

/-- The machine right after reset (R41, R220), with nothing answered, drawn or coming (log 4, log 5, log 7). -/
def State.reset : State :=
  { lct := Lct.reset, cas := Cas.reset, out := .nothing, draws := 0, inputs := [] }

/-- The state with another transport state. -/
def State.setLct (s : State) (l : Lct) : State := { s with lct := l }

/-- The state with another codec state. -/
def State.setCas (s : State) (c : Cas) : State := { s with cas := c }

/-- The state with another result of the last step. -/
def State.setOut (s : State) (o : Output) : State := { s with out := o }

/-- The state with another draw counter. -/
def State.setDraws (s : State) (n : Nat) : State := { s with draws := n }

/-- The state with other events to come. -/
def State.setInputs (s : State) (is : List Input) : State := { s with inputs := is }

/-- The block has no fault outcome ("no fatal-error path"; R9, R200), so there is nothing to construct. Safe: no
step of the model stops with a fault. -/
inductive Fault where
  deriving DecidableEq, Repr

/-- Why the model gives a step no meaning. -/
inductive Refusal where
  /-- Raised by `exec` for an operation that has no meaning in the model yet. Safe: nothing is claimed of it. -/
  | notModelled (mnemonic : String)
  /-- `refuse(access_outside_interface)` of R52: raised by `step` for a host access that is not 32 bits wide, not at
  a multiple of 4, or outside the window. Safe: the spec gives such an access no meaning either. -/
  | accessOutsideInterface
  /-- Raised by `step` for a packet that is neither a Format A nor a Format P operation (R70, R71): too short, too
  long, or with a bit outside the format's fields. Safe: no operation of the block is encoded so. -/
  | malformedPacket
  deriving DecidableEq, Repr

end Sys2Proof.Machine
end

