-- ==== Sys2Proof/Machine/Operands.lean ====
section
/-! DEFINITION. Operand forms: what a write takes from its data operand (R76), what a read assembles (R77), left
alignment (R106) and big-endian assembly (R78). -/

namespace Sys2Proof.Machine

/-- `mask(n) = 2^n - 1` as a 32-bit value (R7). -/
def mask (n : Nat) : Word := BitVec.ofNat 32 (2 ^ n - 1)

/-- The current word width `W` (R7): 8, or 32 when `W32` is set. -/
def Lct.width (l : Lct) : Nat := if l.w32 then 32 else 8

/-- Left alignment of a `w`-bit word (R106): `(v AND mask(w)) << (32 - w)`. -/
def align (w : Nat) (v : Word) : Word := (v &&& mask w) <<< (32 - w)

/-- A bit zero-extended to 32 bits. -/
def zextBit (b : Bool) : Word := (BitVec.ofBool b).setWidth 32

/-- A byte zero-extended to 16 bits. -/
def zextByte (b : Byte) : Half := b.setWidth 16

/-- `v[7:0]` (R76). -/
def byteField (v : Word) : Byte := v.extractLsb' 0 8

/-- `v[15:0]` (R76). -/
def halfField (v : Word) : Half := v.extractLsb' 0 16

/-- `v[1:0]` (R76). -/
def typeField (v : Word) : BitVec 2 := v.extractLsb' 0 2

/-- `EN = v[0]` of a write of LCT_CTRL (R76). -/
def enField (v : Word) : Bool := v.getLsbD 0

/-- `W32 = v[1]` of a write of LCT_CTRL (R76). -/
def w32Field (v : Word) : Bool := v.getLsbD 1

/-- `IE = v[2]` of a write of LCT_CTRL (R76). -/
def ieField (v : Word) : Bool := v.getLsbD 2

/-- `x[15:8]`, the first byte of a big-endian value (R78). -/
def highByte (x : Half) : Byte := x.extractLsb' 8 8

/-- `x[7:0]`, the second byte of a big-endian value (R78). -/
def lowByte (x : Half) : Byte := x.extractLsb' 0 8

/-- The 16-bit value of two wire bytes, high byte first (R78): `hi * 256 + lo`. -/
def bigEndian (hi lo : Byte) : Half := zextByte hi * 256 + zextByte lo

/-- What a read of LCT_CTRL assembles (R100): `zext_32(IE ++ W32 ++ EN)`. -/
def ctrlWord (l : Lct) : Word := (BitVec.ofBool l.ie ++ BitVec.ofBool l.w32 ++ BitVec.ofBool l.en).setWidth 32

/-- What a read of LCT_STATUS assembles (R107) from the transport's state and the level of IRQ. -/
def statusWord (l : Lct) (irq : Bool) : Word :=
  (l.bitcnt ++ 0b00000#5 ++ BitVec.ofBool irq ++ BitVec.ofBool l.txp ++ BitVec.ofBool l.rxv).setWidth 32

/-- What a read of LCT_RXDATA returns (R101): `RXBUF AND mask(W)`. -/
def rxdataWord (l : Lct) : Word := l.rxbuf &&& mask l.width

/-- The last read's result, 0 where the last step was no read. -/
def State.readResult (s : State) : Word :=
  match s.out with
  | .readData v => v
  | _ => 0

end Sys2Proof.Machine
end

