-- ==== Sys2Proof/Machine/Ops.lean ====
section
/-! DEFINITION. The operations that the meanings share: byte arrays read and written by index and by register
(R32, R35, R56), the clearing actions of the three transport resets (R221), the power-on reset event (R220), and how a
step answers (R9). The block takes no trap and has no return from one (R200, R207, R208), so there is no exception
entry here. -/

namespace Sys2Proof.Machine

/-- Byte `i` of a byte array; 0 past its end, where no operation reads. -/
def readByte {n : Nat} (a : Vector Byte n) (i : Nat) : Byte := (a[i]?).getD 0

/-- The byte array with byte `i` replaced; unchanged past its end, where no operation writes. -/
def writeByte {n : Nat} (a : Vector Byte n) (i : Nat) (b : Byte) : Vector Byte n := a.setIfInBounds i b

/-- The byte array with the bytes of the list stored from index `i` up. -/
def writeBytes {n : Nat} (a : Vector Byte n) (i : Nat) : List Byte → Vector Byte n
  | [] => a
  | b :: bs => writeBytes (writeByte a i b) (i + 1) bs

/-- The `m` bytes from index `i` up. -/
def readBytes {n : Nat} (a : Vector Byte n) (i : Nat) : Nat → List Byte
  | 0 => []
  | m + 1 => readByte a i :: readBytes a (i + 1) m

/-- Register `k` of a byte array (R32, R35, R56): byte `4k + j` is bits `8j+7 : 8j`. -/
def readRegister {n : Nat} (a : Vector Byte n) (k : Nat) : Word :=
  wordOfBytes (readByte a (4 * k)) (readByte a (4 * k + 1)) (readByte a (4 * k + 2)) (readByte a (4 * k + 3))

/-- The byte array with register `k` written (R76): byte `4k + j` becomes `v[8j+7:8j]`. -/
def writeRegister {n : Nat} (a : Vector Byte n) (k : Nat) (v : Word) : Vector Byte n :=
  writeBytes a (4 * k) (bytesOfWord v)

/-- Restart from program start (R104, R103): the bit counter and both shift registers become 0. -/
def Lct.clearFraming (l : Lct) : Lct := { l with bitcnt := 0, rxsr := 0, txsr := 0 }

/-- Drop the received and the pending word (R105, R104, R103). -/
def Lct.clearBuffers (l : Lct) : Lct := { l with rxbuf := 0, rxv := false, txbuf := 0, txp := false }

/-- A read answers its result (R9). -/
def State.answer (s : State) (v : Word) : State := s.setOut (.readData v)

/-- A write answers nothing (R9). -/
def State.done (s : State) : State := s.setOut .nothing

/-- A pulse answers the bit on SO (R9, R71). -/
def State.drive (s : State) (so : Bool) : State := s.setOut (.serialOut so)

/-- The power-on reset event (R220): every field of both sub-blocks takes its reset value. The events still to come
and the count of values drawn are not the block's and stay (log 4, log 25). -/
def powerOnReset (s : State) : State := ((s.setLct Lct.reset).setCas Cas.reset).done

end Sys2Proof.Machine
end

