-- ==== Sys2Proof/Machine/Address.lean ====
section
/-! DEFINITION. The address record serializer (42_address.md): the pure functions over the tag parameters (R162,
R165), the two strobes (R160, R161) and the accesses of its registers (R166 to R168). -/

namespace Sys2Proof.Machine

/-- `encode_address(a)` (R162): tag, port big-endian (R164), host bytes raw. -/
def encodeAddress (t : Config.Tags) : AddressRecord → List Byte
  | .none => [t.none]
  | .ipv4 p h => t.ipv4 :: highByte p :: lowByte p :: h.toList
  | .ipv6 p h => t.ipv6 :: highByte p :: lowByte p :: h.toList

/-- The `n` bytes of the list from index 3 up: the host bytes of an encoded record (R75). -/
def hostOf (b : List Byte) (n : Nat) : Vector Byte n := Vector.ofFn fun i => b.getD (3 + i.val) 0

/-- The port of an encoded record (R164): bytes 1 and 2, big-endian. -/
def portOf (b : List Byte) : Half := bigEndian (b.getD 1 0) (b.getD 2 0)

/-- `decode_address(b)` (R165): the record, or none for the rejection, and the bytes consumed. -/
def decodeAddress (t : Config.Tags) (b : List Byte) : Option AddressRecord × Nat :=
  match b with
  | [] => (none, 0)
  | tag :: _ =>
    if tag = t.none then (some .none, 1)
    else if tag = t.ipv4 then
      if b.length < 7 then (none, 0) else (some (.ipv4 (portOf b) (hostOf b 4)), 7)
    else if tag = t.ipv6 then
      if b.length < 19 then (none, 0) else (some (.ipv6 (portOf b) (hostOf b 16)), 19)
    else (none, 0)

/-- `BUF` with a tag, the port and the first `n` host bytes stored from index 0 up (R160). -/
def Cas.bufWith (c : Cas) (tag : Byte) (n : Nat) : Vector Byte 20 :=
  writeBytes c.buf 0 (tag :: highByte c.port :: lowByte c.port :: readBytes c.host 0 n)

/-- `HOST` with its first `n` bytes taken from `BUF[3..]` (R161). -/
def Cas.hostFromBuf (c : Cas) (n : Nat) : Vector Byte 16 := writeBytes c.host 0 (readBytes c.buf 3 n)

/-- The port that `BUF[1]` and `BUF[2]` hold, big-endian (R161, R164). -/
def Cas.portFromBuf (c : Cas) : Half := bigEndian (readByte c.buf 1) (readByte c.buf 2)

/-- Serialize the record held in TYPE, PORT and HOST into BUF and LEN (R160). -/
def Cas.encodeRecord (t : Config.Tags) (c : Cas) : Cas :=
  if c.type = 0 then { c with buf := writeBytes c.buf 0 [t.none], len := 1 }
  else if c.type = 1 then { c with buf := c.bufWith t.ipv4 4, len := 7 }
  else if c.type = 2 then { c with buf := c.bufWith t.ipv6 16, len := 19 }
  else { c with len := 0 }

/-- Deserialize the first LEN bytes of BUF (R161). -/
def Cas.decodeRecord (t : Config.Tags) (c : Cas) : Cas :=
  let n := c.len.toNat
  let tag := readByte c.buf 0
  if n ≥ 1 ∧ tag = t.none then { c with type := 0, result := 1 }
  else if n ≥ 7 ∧ tag = t.ipv4 then
    { c with type := 1, port := c.portFromBuf, host := c.hostFromBuf 4, result := 7 }
  else if n ≥ 19 ∧ tag = t.ipv6 then
    { c with type := 2, port := c.portFromBuf, host := c.hostFromBuf 16, result := 19 }
  else { c with result := 0 }

/-- RD.AD_TYPE (R166). -/
def execRdAdType (s : State) : Host.Outcome State Fault Refusal := .next (s.answer (s.cas.type.setWidth 32))

/-- RD.AD_PORT (R166). -/
def execRdAdPort (s : State) : Host.Outcome State Fault Refusal := .next (s.answer (s.cas.port.setWidth 32))

/-- RD.AD_HOST0 (R166). -/
def execRdAdHost0 (s : State) : Host.Outcome State Fault Refusal := .next (s.answer (readRegister s.cas.host 0))

/-- RD.AD_HOST1 (R166). -/
def execRdAdHost1 (s : State) : Host.Outcome State Fault Refusal := .next (s.answer (readRegister s.cas.host 1))

/-- RD.AD_HOST2 (R166). -/
def execRdAdHost2 (s : State) : Host.Outcome State Fault Refusal := .next (s.answer (readRegister s.cas.host 2))

/-- RD.AD_HOST3 (R166). -/
def execRdAdHost3 (s : State) : Host.Outcome State Fault Refusal := .next (s.answer (readRegister s.cas.host 3))

/-- RD.AD_LEN (R166). -/
def execRdAdLen (s : State) : Host.Outcome State Fault Refusal := .next (s.answer (s.cas.len.setWidth 32))

/-- RD.AD_RESULT (R166). -/
def execRdAdResult (s : State) : Host.Outcome State Fault Refusal := .next (s.answer (s.cas.result.setWidth 32))

/-- RD.AD_BUF0 (R166). -/
def execRdAdBuf0 (s : State) : Host.Outcome State Fault Refusal := .next (s.answer (readRegister s.cas.buf 0))

/-- RD.AD_BUF1 (R166). -/
def execRdAdBuf1 (s : State) : Host.Outcome State Fault Refusal := .next (s.answer (readRegister s.cas.buf 1))

/-- RD.AD_BUF2 (R166). -/
def execRdAdBuf2 (s : State) : Host.Outcome State Fault Refusal := .next (s.answer (readRegister s.cas.buf 2))

/-- RD.AD_BUF3 (R166). -/
def execRdAdBuf3 (s : State) : Host.Outcome State Fault Refusal := .next (s.answer (readRegister s.cas.buf 3))

/-- RD.AD_BUF4 (R166). -/
def execRdAdBuf4 (s : State) : Host.Outcome State Fault Refusal := .next (s.answer (readRegister s.cas.buf 4))

/-- RD.AD_ENCODE (R168): a strobe reads 0 and does not act. -/
def execRdAdEncode (s : State) : Host.Outcome State Fault Refusal := .next (s.answer 0)

/-- RD.AD_DECODE (R168): a strobe reads 0 and does not act. -/
def execRdAdDecode (s : State) : Host.Outcome State Fault Refusal := .next (s.answer 0)

/-- WR.AD_TYPE (R167). -/
def execWrAdType (v : Word) (s : State) : Host.Outcome State Fault Refusal :=
  .next ((s.setCas { s.cas with type := typeField v }).done)

/-- WR.AD_PORT (R167). -/
def execWrAdPort (v : Word) (s : State) : Host.Outcome State Fault Refusal :=
  .next ((s.setCas { s.cas with port := halfField v }).done)

/-- WR.AD_HOST0 (R167). -/
def execWrAdHost0 (v : Word) (s : State) : Host.Outcome State Fault Refusal :=
  .next ((s.setCas { s.cas with host := writeRegister s.cas.host 0 v }).done)

/-- WR.AD_HOST1 (R167). -/
def execWrAdHost1 (v : Word) (s : State) : Host.Outcome State Fault Refusal :=
  .next ((s.setCas { s.cas with host := writeRegister s.cas.host 1 v }).done)

/-- WR.AD_HOST2 (R167). -/
def execWrAdHost2 (v : Word) (s : State) : Host.Outcome State Fault Refusal :=
  .next ((s.setCas { s.cas with host := writeRegister s.cas.host 2 v }).done)

/-- WR.AD_HOST3 (R167). -/
def execWrAdHost3 (v : Word) (s : State) : Host.Outcome State Fault Refusal :=
  .next ((s.setCas { s.cas with host := writeRegister s.cas.host 3 v }).done)

/-- WR.AD_LEN (R167). -/
def execWrAdLen (v : Word) (s : State) : Host.Outcome State Fault Refusal :=
  .next ((s.setCas { s.cas with len := byteField v }).done)

/-- WR.AD_RESULT (R168): a write of a read-only register is ignored. -/
def execWrAdResult (_v : Word) (s : State) : Host.Outcome State Fault Refusal := .next s.done

/-- WR.AD_BUF0 (R167). -/
def execWrAdBuf0 (v : Word) (s : State) : Host.Outcome State Fault Refusal :=
  .next ((s.setCas { s.cas with buf := writeRegister s.cas.buf 0 v }).done)

/-- WR.AD_BUF1 (R167). -/
def execWrAdBuf1 (v : Word) (s : State) : Host.Outcome State Fault Refusal :=
  .next ((s.setCas { s.cas with buf := writeRegister s.cas.buf 1 v }).done)

/-- WR.AD_BUF2 (R167). -/
def execWrAdBuf2 (v : Word) (s : State) : Host.Outcome State Fault Refusal :=
  .next ((s.setCas { s.cas with buf := writeRegister s.cas.buf 2 v }).done)

/-- WR.AD_BUF3 (R167). -/
def execWrAdBuf3 (v : Word) (s : State) : Host.Outcome State Fault Refusal :=
  .next ((s.setCas { s.cas with buf := writeRegister s.cas.buf 3 v }).done)

/-- WR.AD_BUF4 (R167). -/
def execWrAdBuf4 (v : Word) (s : State) : Host.Outcome State Fault Refusal :=
  .next ((s.setCas { s.cas with buf := writeRegister s.cas.buf 4 v }).done)

/-- WR.AD_ENCODE (R160). -/
def execWrAdEncode (_v : Word) (s : State) : Host.Outcome State Fault Refusal :=
  .next ((s.setCas (s.cas.encodeRecord Config.tags)).done)

/-- WR.AD_DECODE (R161). -/
def execWrAdDecode (_v : Word) (s : State) : Host.Outcome State Fault Refusal :=
  .next ((s.setCas (s.cas.decodeRecord Config.tags)).done)

end Sys2Proof.Machine
end

