-- ==== Sys2Proof/Machine/Flags.lean ====
section
/-! DEFINITION. The combinational flags and outputs (R29, R39, R42, R202): functions of the state, not stored. -/

namespace Sys2Proof.Machine

/-- The level of the interrupt request (R39, R202): `IE AND RXV`. -/
def Lct.irq (l : Lct) : Bool := l.ie && l.rxv

/-- The level of the interrupt request of the machine (R202). -/
def State.irq (s : State) : Bool := s.lct.irq

/-- What the block drives on host interrupt input `line` (R205, R209): IRQ on `IRQ_LINE`, nothing elsewhere. -/
def State.irqAt (s : State) (line : Nat) : Bool := line == Config.irqLine && s.irq

/-- The flag MATCH (R29, R145): `ACC = EXPECT`. -/
def Cas.matches (c : Cas) : Bool := c.acc == c.expect

end Sys2Proof.Machine
end

