-- ==== Sys2Proof/Machine/Checksum.lean ====
section
/-! DEFINITION. The checksum unit (41_checksum.md): the pure functions (R148 to R150) and the accesses of its five
registers (R140 to R147). -/

namespace Sys2Proof.Machine

/-- The accumulator after one more byte (R141): 16 bits, no saturation, the carry lost. -/
def addByte (acc : Half) (b : Byte) : Half := acc + zextByte b

/-- `checksum(b)` (R148), as the fold the rule gives. -/
def checksum (b : List Byte) : Half := b.foldl addByte 0

/-- `append_checksum(b)` (R149): the two trailer bytes, high byte first. -/
def appendChecksum (b : List Byte) : List Byte := [highByte (checksum b), lowByte (checksum b)]

/-- `verify(b, e)` (R150), for a list `e` of two bytes; a list of another length verifies nothing (log 27). -/
def verify (b e : List Byte) : Bool :=
  match e with
  | [e0, e1] => bigEndian e0 e1 == checksum b
  | _ => false

/-- CK_SUM as the block puts it into big-endian order (R57): the wire form of R142, high byte first. No operation of R79
answers it (log 29). -/
def Cas.sumTrailer (c : Cas) : List Byte := [highByte c.acc, lowByte c.acc]

/-- CK_EXPECT as the block puts it into big-endian order (R57). No operation of R79 answers it (log 29). -/
def Cas.expectTrailer (c : Cas) : List Byte := [highByte c.expect, lowByte c.expect]

/-- CK_EXPECT as the block takes it out of a big-endian trailer (R57). No operation of R79 carries the two bytes
(log 29). -/
def Cas.takeTrailer (c : Cas) (hi lo : Byte) : Cas := { c with expect := bigEndian hi lo }

/-- RD.CK_CLEAR (R146): a strobe reads 0 and does not act. -/
def execRdCkClear (s : State) : Host.Outcome State Fault Refusal := .next (s.answer 0)

/-- RD.CK_DATA (R146): a write-only register reads 0 and adds nothing. -/
def execRdCkData (s : State) : Host.Outcome State Fault Refusal := .next (s.answer 0)

/-- RD.CK_SUM (R142). -/
def execRdCkSum (s : State) : Host.Outcome State Fault Refusal := .next (s.answer (s.cas.acc.setWidth 32))

/-- RD.CK_EXPECT (R144). -/
def execRdCkExpect (s : State) : Host.Outcome State Fault Refusal := .next (s.answer (s.cas.expect.setWidth 32))

/-- RD.CK_STATUS (R145): bit 0 is MATCH. -/
def execRdCkStatus (s : State) : Host.Outcome State Fault Refusal := .next (s.answer (zextBit s.cas.matches))

/-- WR.CK_CLEAR (R140). -/
def execWrCkClear (_v : Word) (s : State) : Host.Outcome State Fault Refusal :=
  .next ((s.setCas { s.cas with acc := 0 }).done)

/-- WR.CK_DATA (R141). -/
def execWrCkData (v : Word) (s : State) : Host.Outcome State Fault Refusal :=
  .next ((s.setCas { s.cas with acc := addByte s.cas.acc (byteField v) }).done)

/-- WR.CK_SUM (R147): a write of a read-only register is ignored. -/
def execWrCkSum (_v : Word) (s : State) : Host.Outcome State Fault Refusal := .next s.done

/-- WR.CK_EXPECT (R143). -/
def execWrCkExpect (v : Word) (s : State) : Host.Outcome State Fault Refusal :=
  .next ((s.setCas { s.cas with expect := halfField v }).done)

/-- WR.CK_STATUS (R147): a write of a read-only register is ignored. -/
def execWrCkStatus (_v : Word) (s : State) : Host.Outcome State Fault Refusal := .next s.done

end Sys2Proof.Machine
end

