-- ==== Sys2Proof/Machine/Reserved.lean ====
section
/-! DEFINITION. The reserved offsets (R53 of 20_memory.md): reads return 0, writes are ignored, neither is an
error. -/

namespace Sys2Proof.Machine

/-- RD.RSVD_18 (R53). -/
def execRdRsvd18 (s : State) : Host.Outcome State Fault Refusal := .next (s.answer 0)

/-- RD.RSVD_1C (R53). -/
def execRdRsvd1C (s : State) : Host.Outcome State Fault Refusal := .next (s.answer 0)

/-- RD.RSVD_34 (R53). -/
def execRdRsvd34 (s : State) : Host.Outcome State Fault Refusal := .next (s.answer 0)

/-- RD.RSVD_38 (R53). -/
def execRdRsvd38 (s : State) : Host.Outcome State Fault Refusal := .next (s.answer 0)

/-- RD.RSVD_3C (R53). -/
def execRdRsvd3C (s : State) : Host.Outcome State Fault Refusal := .next (s.answer 0)

/-- RD.RSVD_7C (R53). -/
def execRdRsvd7C (s : State) : Host.Outcome State Fault Refusal := .next (s.answer 0)

/-- WR.RSVD_18 (R53). -/
def execWrRsvd18 (_v : Word) (s : State) : Host.Outcome State Fault Refusal := .next s.done

/-- WR.RSVD_1C (R53). -/
def execWrRsvd1C (_v : Word) (s : State) : Host.Outcome State Fault Refusal := .next s.done

/-- WR.RSVD_34 (R53). -/
def execWrRsvd34 (_v : Word) (s : State) : Host.Outcome State Fault Refusal := .next s.done

/-- WR.RSVD_38 (R53). -/
def execWrRsvd38 (_v : Word) (s : State) : Host.Outcome State Fault Refusal := .next s.done

/-- WR.RSVD_3C (R53). -/
def execWrRsvd3C (_v : Word) (s : State) : Host.Outcome State Fault Refusal := .next s.done

/-- WR.RSVD_7C (R53). -/
def execWrRsvd7C (_v : Word) (s : State) : Host.Outcome State Fault Refusal := .next s.done

end Sys2Proof.Machine
end

