-- ==== Sys2Proof/Machine/Transport.lean ====
section
/-! DEFINITION. The operations of LCT (40_transport.md): the accesses of its six registers (R100 to R109) and the
peer's clock pulse (R120, R121). -/

namespace Sys2Proof.Machine

/-- What a write of LCT_CTRL does to the transport (R103): a width change clears framing and buffers; then the three
fields are stored. -/
def Lct.writeCtrl (l : Lct) (v : Word) : Lct :=
  let c := if w32Field v != l.w32 then l.clearFraming.clearBuffers else l
  { c with en := enField v, w32 := w32Field v, ie := ieField v }

/-- The transport reset (R104): framing and buffers cleared, `EN <- 1`, `W32` and `IE` kept. -/
def Lct.transportReset (l : Lct) : Lct := { l.clearFraming.clearBuffers with en := true }

/-- Accept a word to send (R102): it replaces the pending one. -/
def Lct.sendWord (l : Lct) (v : Word) : Lct := { l with txbuf := align l.width v, txp := true }

/-- A pulse that finds `BITCNT = 0` begins a word (R120). -/
def Lct.startsWord (l : Lct) : Bool := l.bitcnt == 0

/-- A pulse that finds `BITCNT = W - 1` ends the word (R120). -/
def Lct.endsWord (l : Lct) : Bool := l.bitcnt.toNat == l.width - 1

/-- A word begins with no pending word (R123): one idle word is drawn. -/
def Lct.underruns (l : Lct) : Bool := l.startsWord && !l.txp

/-- The transmit register the pulse shifts out of (`t` of R120): the pending word or an idle word at a word's start,
`TXSR` within a word. -/
def Lct.shiftSource (l : Lct) (idle : Word) : Word :=
  if l.startsWord then (if l.txp then l.txbuf else align l.width idle) else l.txsr

/-- The receive register after the pulse (`r` of R120). -/
def Lct.shiftedIn (l : Lct) (si : Bool) : Word := (l.rxsr <<< 1) ||| zextBit si

/-- One bit exchange of the enabled transport (R120), `idle` being the word drawn should the word underrun. -/
def Lct.exchange (l : Lct) (idle : Word) (si : Bool) : Lct :=
  let m := { l with
    txp := l.txp && !l.startsWord
    txsr := l.shiftSource idle <<< 1
    rxsr := l.shiftedIn si }
  if l.endsWord then { m with rxbuf := l.shiftedIn si &&& mask l.width, rxv := true, bitcnt := 0 }
  else { m with bitcnt := l.bitcnt + 1 }

/-- The pulse while `EN = 1` (R120): one exchange, `so` being bit 31 of the register shifted out of. -/
def State.pulseEnabled (s : State) (si : Bool) : State :=
  let idle := Config.idleTxWord s.draws
  ((s.setLct (s.lct.exchange idle si)).setDraws (if s.lct.underruns then s.draws + 1 else s.draws)).drive
    ((s.lct.shiftSource idle).getLsbD 31)

/-- The pulse while `EN = 0` (R121): no state of the block changes, the level on SO is free. -/
def State.pulseDisabled (s : State) : State :=
  (s.setDraws (s.draws + 1)).drive (Config.soDisabled s.draws)

/-- RD.LCT_CTRL (R100). -/
def execRdLctCtrl (s : State) : Host.Outcome State Fault Refusal := .next (s.answer (ctrlWord s.lct))

/-- RD.LCT_STATUS (R107): the word is not consumed. -/
def execRdLctStatus (s : State) : Host.Outcome State Fault Refusal := .next (s.answer (statusWord s.lct s.irq))

/-- RD.LCT_RXDATA (R101): the one read with a side effect (R54), it clears RXV. -/
def execRdLctRxdata (s : State) : Host.Outcome State Fault Refusal :=
  .next ((s.setLct { s.lct with rxv := false }).answer (rxdataWord s.lct))

/-- RD.LCT_TXDATA (R108): a write-only register reads 0. -/
def execRdLctTxdata (s : State) : Host.Outcome State Fault Refusal := .next (s.answer 0)

/-- RD.LCT_RESET (R108): a strobe reads 0 and does not act. -/
def execRdLctReset (s : State) : Host.Outcome State Fault Refusal := .next (s.answer 0)

/-- RD.LCT_CLEAR (R108): a strobe reads 0 and does not act. -/
def execRdLctClear (s : State) : Host.Outcome State Fault Refusal := .next (s.answer 0)

/-- WR.LCT_CTRL (R103). -/
def execWrLctCtrl (v : Word) (s : State) : Host.Outcome State Fault Refusal :=
  .next ((s.setLct (s.lct.writeCtrl v)).done)

/-- WR.LCT_STATUS (R109): a write of a read-only register is ignored. -/
def execWrLctStatus (_v : Word) (s : State) : Host.Outcome State Fault Refusal := .next s.done

/-- WR.LCT_RXDATA (R109): ignored; it does not clear RXV. -/
def execWrLctRxdata (_v : Word) (s : State) : Host.Outcome State Fault Refusal := .next s.done

/-- WR.LCT_TXDATA (R102). -/
def execWrLctTxdata (v : Word) (s : State) : Host.Outcome State Fault Refusal :=
  .next ((s.setLct (s.lct.sendWord v)).done)

/-- WR.LCT_RESET (R104). -/
def execWrLctReset (_v : Word) (s : State) : Host.Outcome State Fault Refusal :=
  .next ((s.setLct s.lct.transportReset).done)

/-- WR.LCT_CLEAR (R105): buffers dropped, framing kept. -/
def execWrLctClear (_v : Word) (s : State) : Host.Outcome State Fault Refusal :=
  .next ((s.setLct s.lct.clearBuffers).done)

/-- PULSE (R120 with `EN = 1`, R121 with `EN = 0`). -/
def execPulse (si : Bool) (s : State) : Host.Outcome State Fault Refusal :=
  .next (if s.lct.en then s.pulseEnabled si else s.pulseDisabled)

end Sys2Proof.Machine
end

