-- ==== Sys2Proof/Machine/Dispatch.lean ====
section
/-! DEFINITION. The meaning of every operation of the block (R79): one arm per row of spec/opcode_table.json. -/

namespace Sys2Proof.Machine

def exec (i : Instr) (s : State) : Host.Outcome State Fault Refusal :=
  match i with
  | .rdLctCtrl => Sys2Proof.Machine.execRdLctCtrl s
  | .rdLctStatus => Sys2Proof.Machine.execRdLctStatus s
  | .rdLctRxdata => Sys2Proof.Machine.execRdLctRxdata s
  | .rdLctTxdata => Sys2Proof.Machine.execRdLctTxdata s
  | .rdLctReset => Sys2Proof.Machine.execRdLctReset s
  | .rdLctClear => Sys2Proof.Machine.execRdLctClear s
  | .rdRsvd18 => Sys2Proof.Machine.execRdRsvd18 s
  | .rdRsvd1C => Sys2Proof.Machine.execRdRsvd1C s
  | .rdCkClear => Sys2Proof.Machine.execRdCkClear s
  | .rdCkData => Sys2Proof.Machine.execRdCkData s
  | .rdCkSum => Sys2Proof.Machine.execRdCkSum s
  | .rdCkExpect => Sys2Proof.Machine.execRdCkExpect s
  | .rdCkStatus => Sys2Proof.Machine.execRdCkStatus s
  | .rdRsvd34 => Sys2Proof.Machine.execRdRsvd34 s
  | .rdRsvd38 => Sys2Proof.Machine.execRdRsvd38 s
  | .rdRsvd3C => Sys2Proof.Machine.execRdRsvd3C s
  | .rdAdType => Sys2Proof.Machine.execRdAdType s
  | .rdAdPort => Sys2Proof.Machine.execRdAdPort s
  | .rdAdHost0 => Sys2Proof.Machine.execRdAdHost0 s
  | .rdAdHost1 => Sys2Proof.Machine.execRdAdHost1 s
  | .rdAdHost2 => Sys2Proof.Machine.execRdAdHost2 s
  | .rdAdHost3 => Sys2Proof.Machine.execRdAdHost3 s
  | .rdAdLen => Sys2Proof.Machine.execRdAdLen s
  | .rdAdResult => Sys2Proof.Machine.execRdAdResult s
  | .rdAdBuf0 => Sys2Proof.Machine.execRdAdBuf0 s
  | .rdAdBuf1 => Sys2Proof.Machine.execRdAdBuf1 s
  | .rdAdBuf2 => Sys2Proof.Machine.execRdAdBuf2 s
  | .rdAdBuf3 => Sys2Proof.Machine.execRdAdBuf3 s
  | .rdAdBuf4 => Sys2Proof.Machine.execRdAdBuf4 s
  | .rdAdEncode => Sys2Proof.Machine.execRdAdEncode s
  | .rdAdDecode => Sys2Proof.Machine.execRdAdDecode s
  | .rdRsvd7C => Sys2Proof.Machine.execRdRsvd7C s
  | .wrLctCtrl v => Sys2Proof.Machine.execWrLctCtrl v s
  | .wrLctStatus v => Sys2Proof.Machine.execWrLctStatus v s
  | .wrLctRxdata v => Sys2Proof.Machine.execWrLctRxdata v s
  | .wrLctTxdata v => Sys2Proof.Machine.execWrLctTxdata v s
  | .wrLctReset v => Sys2Proof.Machine.execWrLctReset v s
  | .wrLctClear v => Sys2Proof.Machine.execWrLctClear v s
  | .wrRsvd18 v => Sys2Proof.Machine.execWrRsvd18 v s
  | .wrRsvd1C v => Sys2Proof.Machine.execWrRsvd1C v s
  | .wrCkClear v => Sys2Proof.Machine.execWrCkClear v s
  | .wrCkData v => Sys2Proof.Machine.execWrCkData v s
  | .wrCkSum v => Sys2Proof.Machine.execWrCkSum v s
  | .wrCkExpect v => Sys2Proof.Machine.execWrCkExpect v s
  | .wrCkStatus v => Sys2Proof.Machine.execWrCkStatus v s
  | .wrRsvd34 v => Sys2Proof.Machine.execWrRsvd34 v s
  | .wrRsvd38 v => Sys2Proof.Machine.execWrRsvd38 v s
  | .wrRsvd3C v => Sys2Proof.Machine.execWrRsvd3C v s
  | .wrAdType v => Sys2Proof.Machine.execWrAdType v s
  | .wrAdPort v => Sys2Proof.Machine.execWrAdPort v s
  | .wrAdHost0 v => Sys2Proof.Machine.execWrAdHost0 v s
  | .wrAdHost1 v => Sys2Proof.Machine.execWrAdHost1 v s
  | .wrAdHost2 v => Sys2Proof.Machine.execWrAdHost2 v s
  | .wrAdHost3 v => Sys2Proof.Machine.execWrAdHost3 v s
  | .wrAdLen v => Sys2Proof.Machine.execWrAdLen v s
  | .wrAdResult v => Sys2Proof.Machine.execWrAdResult v s
  | .wrAdBuf0 v => Sys2Proof.Machine.execWrAdBuf0 v s
  | .wrAdBuf1 v => Sys2Proof.Machine.execWrAdBuf1 v s
  | .wrAdBuf2 v => Sys2Proof.Machine.execWrAdBuf2 v s
  | .wrAdBuf3 v => Sys2Proof.Machine.execWrAdBuf3 v s
  | .wrAdBuf4 v => Sys2Proof.Machine.execWrAdBuf4 v s
  | .wrAdEncode v => Sys2Proof.Machine.execWrAdEncode v s
  | .wrAdDecode v => Sys2Proof.Machine.execWrAdDecode v s
  | .wrRsvd7C v => Sys2Proof.Machine.execWrRsvd7C v s
  | .pulse si => Sys2Proof.Machine.execPulse si s

end Sys2Proof.Machine
end

