-- ==== Sys2Proof/WellFormed.lean ====
section
/-! DEFINITION. Which terms of the syntax are inside the block's interface. An operation always is: every value of
every field is legal (R81). A host access, the tag bytes and a frame call carry real conditions. -/

namespace Sys2Proof

/-- Every operand of every operation is legal (R81: "Every value of every writable field is legal and stored"). -/
def Instr.wellFormed (_ : Instr) : Bool := true

/-- The access is 32 bits wide (R51). -/
def HostAccess.wide (a : HostAccess) : Bool := a.width == .bits32

/-- The access falls in the 128-byte window that begins at `base` (R50, R51). -/
def HostAccess.inWindow (base : Nat) (a : HostAccess) : Bool := base ≤ a.addr && a.addr - base < 128

/-- The access is at a multiple of 4 from `base` (R51). -/
def HostAccess.aligned (base : Nat) (a : HostAccess) : Bool := (a.addr - base) % 4 == 0

/-- The access is inside the interface of the block whose window begins at `base` (R51); every other one is refused
(R52). -/
def HostAccess.wellFormed (base : Nat) (a : HostAccess) : Bool :=
  a.wide && a.inWindow base && a.aligned base

/-- The precondition of `frame_check` (R180): `delivered <= len(buf)`. -/
def FrameCall.wellFormed (c : FrameCall) : Bool := c.delivered ≤ c.buf.length

/-- A legal choice of tag bytes (R163). -/
def tagsWellFormed (t : Config.Tags) : Bool := t.distinct

end Sys2Proof
end

