-- ==== Sys2Proof/Machine/Fetch.lean ====
section
/-! DEFINITION. From the next event to the operation it stands for (R51, R52, R70, R71). The block fetches no program
(R21, R62): its next operation is whatever the host, the peer or the platform does next. -/

namespace Sys2Proof.Machine

/-- What an event asks of the block. -/
inductive Fetched where
  | operation (i : Instr)
  | powerOn
  | refuse (r : Refusal)
  deriving DecidableEq, Repr

/-- The refusal of a packet that is no operation: an offset with no register is an access outside the interface
(R52, R80); any other fault of form is the packet's (log 9). -/
def refusalOf : DecodeError → Refusal
  | .noRegister => .accessOutsideInterface
  | .truncated => .malformedPacket
  | .trailingBytes => .malformedPacket
  | .reservedBits => .malformedPacket

/-- What a packet asks of the block. -/
def fetchPacket (p : Packet) : Fetched :=
  match decode p with
  | .ok i => .operation i
  | .error e => .refuse (refusalOf e)

/-- The packet of a host access inside the interface (R51, R70): its offset from `base`, and its data if it
writes. -/
def accessPacket (base : Nat) (a : HostAccess) : Packet :=
  match a.dir with
  | .read => readPacket (BitVec.ofNat 8 (a.addr - base))
  | .write => writePacket (BitVec.ofNat 8 (a.addr - base)) a.data

/-- What a host access asks of the block whose window begins at `base`; one outside the interface is refused
(R52). -/
def fetchAccess (base : Nat) (a : HostAccess) : Fetched :=
  if a.wellFormed base then fetchPacket (accessPacket base a) else .refuse .accessOutsideInterface

/-- What an event asks of the block. -/
def fetch : Input → Fetched
  | .encoded p => fetchPacket p
  | .hostAccess a => fetchAccess Config.blockBase a
  | .powerOn => .powerOn

/-- The event that is the table word `w` of `nbits` bits. -/
def tableInput (nbits w : Nat) : Input := .encoded (tablePacket nbits w)

end Sys2Proof.Machine
end

