-- ==== Sys2Proof/Machine/Step.lean ====
section
/-! DEFINITION. One step of the block (R9, R55): the next event happens. -/

namespace Sys2Proof.Machine

/-- One step: the oldest event to come is taken and has its effect. With no event nothing changes (R128; log 6). -/
def step (s : State) : Host.Outcome State Fault Refusal :=
  match s.inputs with
  | [] => .next s
  | e :: rest =>
    match fetch e with
    | .operation i => exec i (s.setInputs rest)
    | .powerOn => .next (powerOnReset (s.setInputs rest))
    | .refuse r => .refused r

/-- The state in which the operation of the table word `w` of `nbits` bits is the next event. -/
def State.withFetchWord (s : State) (nbits w : Nat) : State := s.setInputs (tableInput nbits w :: s.inputs)

end Sys2Proof.Machine
end

