-- ==== Sys2Proof/Machine/Frame.lean ====
section
/-! DEFINITION. Command-frame validation (43_frame.md): a pure function the host computes with the checksum unit. -/

namespace Sys2Proof.Machine

/-- `bytes[i:j]` (R7). -/
def slice (b : List Byte) (i j : Nat) : List Byte := (b.take j).drop i

/-- `L = min(requested, delivered, MAX_FRAME_SIZE)` (R181, gate 2). -/
def frameLength (maxFrame : Nat) (c : FrameCall) : Nat := min c.requested (min c.delivered maxFrame)

/-- The bytes the checksum covers, `buf[0 : L-2]` (R73, R181). -/
def frameBody (maxFrame : Nat) (c : FrameCall) : List Byte := slice c.buf 0 (frameLength maxFrame c - 2)

/-- The trailer, `buf[L-2 : L]` (R73, R181). -/
def frameTrailer (maxFrame : Nat) (c : FrameCall) : List Byte :=
  slice c.buf (frameLength maxFrame c - 2) (frameLength maxFrame c)

/-- The accepted frame (R183): `command_id = buf[0]`, `payload = buf[1 : L-2]`. -/
def frameAccepted (maxFrame : Nat) (c : FrameCall) : FrameOutcome :=
  .accept (c.buf.getD 0 0) (slice c.buf 1 (frameLength maxFrame c - 2))

/-- `frame_check` (R181): gates 2, 1 and 4 in turn, each failure a silent drop (R184); a call with
`delivered > len(buf)` is refused (R180). -/
def frameCheck (maxFrame : Nat) (c : FrameCall) : FrameOutcome :=
  if !c.wellFormed then .refused
  else if c.requested = 0 then .drop
  else if frameLength maxFrame c ≤ 2 then .drop
  else if !verify (frameBody maxFrame c) (frameTrailer maxFrame c) then .drop
  else frameAccepted maxFrame c

/-- Gate 3 (R186): the frame may not run because a session is active and its command is session-exclusive. -/
def gate3Drops (exclusive : Byte → Bool) (sessionActive : Bool) (commandId : Byte) : Bool :=
  sessionActive && exclusive commandId

/-- The four gates with gate 3 in its place between gates 2 and 4 (R186), as a model of the command engine has it.
The gates outside the block (3 and 5) are out of scope (R4); this is what R186 says of them. -/
def frameCheckInSession (exclusive : Byte → Bool) (sessionActive : Bool) (maxFrame : Nat) (c : FrameCall) :
    FrameOutcome :=
  if !c.wellFormed then .refused
  else if c.requested = 0 then .drop
  else if frameLength maxFrame c ≤ 2 then .drop
  else if gate3Drops exclusive sessionActive (c.buf.getD 0 0) then .drop
  else if !verify (frameBody maxFrame c) (frameTrailer maxFrame c) then .drop
  else frameAccepted maxFrame c

/-- Gate 3 applied to an outcome of `frame_check`. -/
def gate3After (exclusive : Byte → Bool) (sessionActive : Bool) : FrameOutcome → FrameOutcome
  | .accept id payload => if gate3Drops exclusive sessionActive id then .drop else .accept id payload
  | .drop => .drop
  | .refused => .refused

/-- `frame_check` of this hardware, with its `MAX_FRAME_SIZE` (R5). -/
def frameCheckHere (c : FrameCall) : FrameOutcome := frameCheck Config.maxFrameSize c

/-- The gates of this hardware's command engine, with its `session_exclusive` (R186). -/
def frameCheckInSessionHere (sessionActive : Bool) (c : FrameCall) : FrameOutcome :=
  frameCheckInSession Config.sessionExclusive sessionActive Config.maxFrameSize c

end Sys2Proof.Machine
end

