-- ==== Sys2Proof/Machine/Procedures.lean ====
section
/-! DEFINITION. The host's procedures (R84, R110 to R117, R148 to R150, R169, R170, R185) as sequences of accesses,
each access having its meaning by `exec`, with no other event in between (log 23). A procedure answers nothing only
where an access has no next state, or where a poll runs out of time. -/

namespace Sys2Proof.Machine

/-- One operation, with what it answers. -/
def runOp (i : Instr) (s : State) : Option (Output × State) :=
  match exec i s with
  | .next s' => some (s'.out, s')
  | .fault _ => none
  | .refused _ => none

/-- Operations one after the other, with what each answers. -/
def runOps : List Instr → State → Option (List Output × State)
  | [], s => some ([], s)
  | i :: is, s =>
    match runOp i s with
    | none => none
    | some (o, s1) =>
      match runOps is s1 with
      | none => none
      | some (os, s2) => some (o :: os, s2)

/-- The bits on SO among the answers. -/
def serialBits : List Output → List Bool
  | [] => []
  | .serialOut so :: os => so :: serialBits os
  | .nothing :: os => serialBits os
  | .readData _ :: os => serialBits os

/-- Read accesses and writes as the procedures use them: the state after, and the 32-bit result of a read. -/
def access (i : Instr) (s : State) : Option (Word × State) :=
  match exec i s with
  | .next s' => some (s'.readResult, s')
  | .fault _ => none
  | .refused _ => none

/-- Accesses one after the other, their results not looked at. -/
def accesses : List Instr → State → Option State
  | [], s => some s
  | i :: is, s =>
    match access i s with
    | none => none
    | some (_, s1) => accesses is s1

/-- INITIALIZE (R84, R110): disable, reset, arm. -/
def procInitialize : List Instr := [.wrLctCtrl 0x0, .wrLctReset 0, .wrLctCtrl 0x5]

/-- RECEIVE (R84, R111). -/
def procReceive : Instr := .rdLctRxdata

/-- SEND w (R84, R112). -/
def procSend (w : Word) : Instr := .wrLctTxdata w

/-- RESET (R84, R113). -/
def procReset : Instr := .wrLctReset 0

/-- CLEAR_BUFFERS (R84, R115). -/
def procClearBuffers : Instr := .wrLctClear 0

/-- TEARDOWN (R84, R116). -/
def procTeardown : List Instr := [.wrLctCtrl 0x0, .wrLctClear 0]

/-- SET_WORD_WIDTH b (R84, R114): read LCT_CTRL, write it back with W32 = b. -/
def procSetWordWidth (b : Bool) (s : State) : Option State := do
  let (c, s) ← access .rdLctCtrl s
  accesses [.wrLctCtrl ((c &&& 0x5) ||| (if b then 0x2 else 0x0))] s

/-- WAIT_RX (R84, R117): read LCT_STATUS until bit 0 is 1. Before each read the peer gives the pulses of one list; when
no list is left the wait has not ended. -/
def procWaitRx : List (List Bool) → State → Option (Word × State)
  | [], _ => none
  | sis :: more, s => do
    let (_, s) ← runOps (sis.map .pulse) s
    let (w, s) ← access .rdLctStatus s
    if w.getLsbD 0 then some (w, s) else procWaitRx more s

/-- The writes of CK_DATA that feed a list of bytes (R148). -/
def feedBytes (b : List Byte) : List Instr := b.map fun x => .wrCkData (x.setWidth 32)

/-- CHECKSUM (R84, R148). -/
def procChecksum (b : List Byte) (s : State) : Option (Half × State) := do
  let s ← accesses (.wrCkClear 0 :: feedBytes b) s
  let (v, s) ← access .rdCkSum s
  some (halfField v, s)

/-- The host loads the expected checksum: it assembles the big-endian trailer and writes CK_EXPECT (R143, R150). -/
def hostLoadTrailer (hi lo : Byte) : State → Option State :=
  accesses [.wrCkExpect ((bigEndian hi lo).setWidth 32)]

/-- The block loads the expected checksum: it takes CK_EXPECT out of the big-endian trailer itself (R57, log 29). -/
def blockLoadTrailer (hi lo : Byte) (s : State) : Option State := some (s.setCas (s.cas.takeTrailer hi lo)).done

/-- APPEND_CHECKSUM (R84, R149). The host takes the value into big-endian bytes, as R149 and R78 have it; R57 says that
the block does (DEDUCED, log 29): `blockAppendChecksum`. -/
def procAppendChecksum (b : List Byte) (s : State) : Option (List Byte × State) := do
  let (v, s) ← procChecksum b s
  some ([highByte v, lowByte v], s)

/-- APPEND_CHECKSUM with the block, not the host, putting CK_SUM into big-endian order (R57, log 29). -/
def blockAppendChecksum (b : List Byte) (s : State) : Option (List Byte × State) := do
  let (_, s) ← procChecksum b s
  some (s.cas.sumTrailer, s)

/-- VERIFY (R84, R150), with a way to load the expected checksum: feed the bytes, load, read MATCH. -/
def verifyWith (load : State → Option State) (b : List Byte) (s : State) : Option (Bool × State) := do
  let (_, s) ← procChecksum b s
  let s ← load s
  let (m, s) ← access .rdCkStatus s
  some (m.getLsbD 0, s)

/-- VERIFY b, (hi, lo) (R84, R150). The host assembles the big-endian trailer, as R143 and R150 have it; R57 says that
the block does (DEDUCED, log 29): `blockVerify`. -/
def procVerify (b : List Byte) (hi lo : Byte) (s : State) : Option (Bool × State) :=
  verifyWith (hostLoadTrailer hi lo) b s

/-- VERIFY with the block, not the host, taking CK_EXPECT out of big-endian order (R57, log 29). -/
def blockVerify (b : List Byte) (hi lo : Byte) (s : State) : Option (Bool × State) :=
  verifyWith (blockLoadTrailer hi lo) b s

/-- The variant code of a record (R30). -/
def recordType : AddressRecord → Word
  | .none => 0
  | .ipv4 _ _ => 1
  | .ipv6 _ _ => 2

/-- The port of a record; 0 where it has none (log 23). -/
def recordPort : AddressRecord → Word
  | .none => 0
  | .ipv4 p _ => p.setWidth 32
  | .ipv6 p _ => p.setWidth 32

/-- The host bytes of a record. -/
def recordHost : AddressRecord → List Byte
  | .none => []
  | .ipv4 _ h => h.toList
  | .ipv6 _ h => h.toList

/-- The 32-bit value of bytes `4k .. 4k+3` of a list (R32, R35), 0 past its end (log 23). -/
def listRegister (b : List Byte) (k : Nat) : Word :=
  wordOfBytes (b.getD (4 * k) 0) (b.getD (4 * k + 1) 0) (b.getD (4 * k + 2) 0) (b.getD (4 * k + 3) 0)

/-- The writes of TYPE, PORT and HOST for a record (R169). -/
def loadRecord (a : AddressRecord) : List Instr :=
  [.wrAdType (recordType a), .wrAdPort (recordPort a),
    .wrAdHost0 (listRegister (recordHost a) 0), .wrAdHost1 (listRegister (recordHost a) 1),
    .wrAdHost2 (listRegister (recordHost a) 2), .wrAdHost3 (listRegister (recordHost a) 3)]

/-- The reads of AD_BUF0 up. -/
def bufReads : List Instr := [.rdAdBuf0, .rdAdBuf1, .rdAdBuf2, .rdAdBuf3, .rdAdBuf4]

/-- The bytes that a sequence of reads answers, four to a read, low byte first (R35). -/
def readAllBytes : List Instr → State → Option (List Byte × State)
  | [], s => some ([], s)
  | i :: is, s => do
    let (v, s) ← access i s
    let (bs, s) ← readAllBytes is s
    some (bytesOfWord v ++ bs, s)

/-- An encode over the registers (R84, R169): write the record, strobe AD_ENCODE, read AD_LEN (`n`), then the registers of
BUF that `reads n` lists, and take `BUF[0 : n]`. -/
def encodeWith (reads : Word → List Instr) (a : AddressRecord) (s : State) : Option (List Byte × State) := do
  let s ← accesses (loadRecord a ++ [.wrAdEncode 0]) s
  let (n, s) ← access .rdAdLen s
  let (bs, s) ← readAllBytes (reads n) s
  some (bs.take n.toNat, s)

/-- `encode_address` over the registers as R169 has it: it reads `AD_BUF0 .. AD_BUF((n-1) div 4)`. -/
def procEncodeAddress (a : AddressRecord) (s : State) : Option (List Byte × State) :=
  encodeWith (fun n => bufReads.take ((n.toNat + 3) / 4)) a s

/-- ENCODE_ADDRESS as R84 expands it: it reads AD_BUF0 to AD_BUF4, all five. -/
def pseudoEncodeAddress (a : AddressRecord) (s : State) : Option (List Byte × State) :=
  encodeWith (fun _ => bufReads) a s

/-- The writes of BUF for a list of bytes (R84, R170): `b[0 : min(n, 19)]`, the rest 0 (log 23). -/
def loadBuf (b : List Byte) : List Instr :=
  [.wrAdBuf0 (listRegister (b.take 19) 0), .wrAdBuf1 (listRegister (b.take 19) 1),
    .wrAdBuf2 (listRegister (b.take 19) 2), .wrAdBuf3 (listRegister (b.take 19) 3),
    .wrAdBuf4 (listRegister (b.take 19) 4)]

/-- The record that TYPE, PORT and the four HOST registers spell (R30 to R32), if it is one. -/
def recordOfRegisters (t p : Word) (host : List Byte) : Option AddressRecord :=
  if t = 0 then some .none
  else if t = 1 then some (.ipv4 (halfField p) (Vector.ofFn fun i => host.getD i.val 0))
  else if t = 2 then some (.ipv6 (halfField p) (Vector.ofFn fun i => host.getD i.val 0))
  else none

/-- The reads of all four HOST registers. -/
def hostReads : List Instr := [.rdAdHost0, .rdAdHost1, .rdAdHost2, .rdAdHost3]

/-- The reads of the HOST bytes of the variant with code `t` (R30, R32, R170): none, four bytes or sixteen. -/
def variantHostReads (t : Word) : List Instr :=
  if t = 1 then hostReads.take 1 else if t = 2 then hostReads else []

/-- A decode over the registers (R84, R170): write BUF and `len`, strobe AD_DECODE, read AD_RESULT; unless it is 0, read
AD_TYPE (`t`), AD_PORT and the registers of HOST that `reads t` lists. -/
def decodeWith (len : Word) (reads : Word → List Instr) (b : List Byte) (s : State) :
    Option ((Option AddressRecord × Nat) × State) := do
  let s ← accesses (loadBuf b ++ [.wrAdLen len, .wrAdDecode 0]) s
  let (c, s) ← access .rdAdResult s
  if c = 0 then some ((none, 0), s)
  else do
    let (t, s) ← access .rdAdType s
    let (p, s) ← access .rdAdPort s
    let (host, s) ← readAllBytes (reads t) s
    some ((recordOfRegisters t p host, c.toNat), s)

/-- `decode_address` over the registers as R170 has it: it writes `LEN = min(n, 255)` and reads the HOST bytes of the
variant. -/
def procDecodeAddress (b : List Byte) (s : State) : Option ((Option AddressRecord × Nat) × State) :=
  decodeWith (BitVec.ofNat 32 (min b.length 255)) variantHostReads b s

/-- DECODE_ADDRESS as R84 expands it: it writes the length itself, of which LEN keeps the low 8 bits (R76), and reads
AD_HOST0 to AD_HOST3, all four. -/
def pseudoDecodeAddress (b : List Byte) (s : State) : Option ((Option AddressRecord × Nat) × State) :=
  decodeWith (BitVec.ofNat 32 b.length) (fun _ => hostReads) b s

/-- `frame_check` over the register interface (R185), with a way to load the expected checksum. A call that breaks the
precondition of R180 is refused before any access (log 22). -/
def frameCheckWith (load : Byte → Byte → State → Option State) (maxFrame : Nat) (c : FrameCall) (s : State) :
    Option (FrameOutcome × State) :=
  if !c.wellFormed then some (.refused, s)
  else if c.requested = 0 then some (.drop, s)
  else if frameLength maxFrame c ≤ 2 then some (.drop, s)
  else do
    let s ← accesses (.wrCkClear 0 :: feedBytes (frameBody maxFrame c)) s
    let s ← load (c.buf.getD (frameLength maxFrame c - 2) 0) (c.buf.getD (frameLength maxFrame c - 1) 0) s
    let (m, s) ← access .rdCkStatus s
    some (if m.getLsbD 0 then frameAccepted maxFrame c else .drop, s)

/-- `frame_check` over the register interface (R185). The host assembles the big-endian trailer, as R185 and R143 have
it; R57 says that the block does (DEDUCED, log 29): `blockFrameCheck`. -/
def procFrameCheck (maxFrame : Nat) (c : FrameCall) (s : State) : Option (FrameOutcome × State) :=
  frameCheckWith hostLoadTrailer maxFrame c s

/-- `frame_check` with the block, not the host, taking CK_EXPECT out of big-endian order (R57, log 29). -/
def blockFrameCheck (maxFrame : Nat) (c : FrameCall) (s : State) : Option (FrameOutcome × State) :=
  frameCheckWith blockLoadTrailer maxFrame c s

end Sys2Proof.Machine
end

