-- ==== Sys2Proof/Safety.lean ====
section
/-! DEFINITION. What the statements call a good state and a good run: the invariants of R40, and events that stay
inside the block's interface (R51, R52). -/

namespace Sys2Proof.Machine

/-- `S.BITCNT < W` (R40). -/
abbrev Lct.bitcntInRange (l : Lct) : Prop := l.bitcnt.toNat < l.width

/-- `S.RXBUF AND NOT mask(W) = 0` (R40). -/
abbrev Lct.rxbufInWidth (l : Lct) : Prop := l.rxbuf &&& ~~~mask l.width = 0

/-- The low `32 - W` bits of `S.TXBUF` are 0 while `S.TXP = 1` (R40). -/
abbrev Lct.txbufAligned (l : Lct) : Prop := l.txp = true → l.txbuf &&& mask (32 - l.width) = 0

/-- The invariants of R40 that speak of one state. (Its last clause speaks of the past: `clearsBuffers` below, and the
statements about it.) -/
abbrev Lct.Inv (l : Lct) : Prop := l.bitcntInRange ∧ l.rxbufInWidth ∧ l.txbufAligned

/-- The invariants of R40, of a machine. -/
abbrev State.Inv (s : State) : Prop := s.lct.Inv

/-- What TXSR holds within a word: only the bits not sent yet, at the top. After the last bit of a word it is 0. This
is stronger than R40 and follows from R106 and R120. -/
abbrev Lct.txsrDrained (l : Lct) : Prop :=
  if l.bitcnt = 0 then l.txsr = 0 else l.txsr <<< (l.width - l.bitcnt.toNat) = 0

/-- The event asks for an operation, or for the power-on reset: it is not refused. -/
def inputInside (e : Input) : Bool :=
  match fetch e with
  | .operation _ => true
  | .powerOn => true
  | .refuse _ => false

/-- Every event to come is inside the interface (R51). -/
def State.staysInside (s : State) : Bool := s.inputs.all inputInside

/-- A step clears the received word (R40, R221): the power-on reset, LCT_RESET, LCT_CLEAR, or a write of LCT_CTRL that
changes W32. -/
def clearsBuffers (f : Fetched) (s : State) : Bool :=
  match f with
  | .powerOn => true
  | .operation (.wrLctReset _) => true
  | .operation (.wrLctClear _) => true
  | .operation (.wrLctCtrl v) => w32Field v != s.lct.w32
  | _ => false

/-- A step completes a word (R120, R122): a pulse while `EN = 1` that finds `BITCNT = W - 1`. -/
def completesWord (f : Fetched) (s : State) : Bool :=
  match f with
  | .operation (.pulse _) => s.lct.en && s.lct.endsWord
  | _ => false

/-- The value of the word whose bits arrive in this order, most significant first (R72, R124). -/
def wordOfBits : List Bool → Word
  | [] => 0
  | b :: bs => (zextBit b <<< bs.length) ||| wordOfBits bs

/-- The `n` low bits of `x`, most significant first (R72). -/
def bitsOfWord (x : Word) : Nat → List Bool
  | 0 => []
  | n + 1 => x.getLsbD n :: bitsOfWord x n

/-- The pulse's input bits among some operations, in order. -/
def pulseBits : List Instr → List Bool
  | [] => []
  | .pulse si :: is => si :: pulseBits is
  | _ :: is => pulseBits is

/-- The bytes that the writes of CK_DATA among some operations add to the accumulator, in order (R141, R148). -/
def fedBytes : List Instr → List Byte
  | [] => []
  | .wrCkData v :: is => byteField v :: fedBytes is
  | _ :: is => fedBytes is

end Sys2Proof.Machine
end

