-- ==== Sys2Proof/Certificates/Slice0/Obligations.lean ====
section
/-! DEFINITION. The statements of the model, for the provers: def Obligations.<Name> : Prop. Each docstring names the
rule of spec/ it formalises. Where a clause is the model's own choice the docstring says so and names the log entry. -/

open Sys2Proof Sys2Proof.Machine

/-! ## Reset, events and the step -/

/-- R41: after reset every field is 0, hence IRQ = 0 and MATCH = 1. -/
def Obligations.ResetStateHasEveryFieldZero : Prop :=
  State.reset.lct =
    { en := false, w32 := false, ie := false, rxv := false, txp := false
      bitcnt := 0, rxsr := 0, txsr := 0, rxbuf := 0, txbuf := 0 } ∧
  State.reset.cas.acc = 0 ∧ State.reset.cas.expect = 0 ∧ State.reset.cas.type = 0 ∧ State.reset.cas.port = 0 ∧
  State.reset.cas.len = 0 ∧ State.reset.cas.result = 0 ∧
  (∀ i (h : i < 16), State.reset.cas.host[i] = 0) ∧ (∀ i (h : i < 20), State.reset.cas.buf[i] = 0) ∧
  State.reset.irq = false ∧ State.reset.cas.matches = true

/-- R220: the step of the power-on reset event sets every field of both sub-blocks to its reset value, from any state.
That the events still to come and the draw counter stay, and that nothing is answered, are the model's (log 25). -/
def Obligations.PowerOnEventResetsBothSubBlocks : Prop :=
  ∀ (s : State) (rest : List Input),
    step { s with inputs := .powerOn :: rest } =
      .next { lct := State.reset.lct, cas := State.reset.cas, out := .nothing, draws := s.draws, inputs := rest }

/-- A step whose next event is a packet that the decoder reads as operation `i` takes the packet from the events to
come and is `exec i`. (The list of events is the model's: log 5.) -/
def Obligations.StepRunsTheDecodedOperation : Prop :=
  ∀ (s : State) (p : Packet) (rest : List Input) (i : Instr), decode p = .ok i → i.wellFormed = true →
    step { s with inputs := .encoded p :: rest } = exec i { s with inputs := rest }

/-- Operations given as events run in order, each as `exec` has it (R55, R59): as many steps as operations lead to the
state that the sequence of meanings leads to, with the later events untouched. -/
def Obligations.EventsRunInOrder : Prop :=
  ∀ (is : List Instr) (s : State) (rest : List Input), ∃ outs t,
    runOps is { s with inputs := rest } = some (outs, t) ∧ outs.length = is.length ∧ t.inputs = rest ∧
    core.run is.length { s with inputs := is.map (fun i => .encoded (encode i)) ++ rest } = .next t

/-- R51: a 32-bit host access at BLOCK_BASE + off, off a multiple of 4 up to 0x7C, is one step: the operation whose
descriptor has that offset and direction, which has a next state. -/
def Obligations.AlignedWordAccessIsOneOperation : Prop :=
  ∀ (s : State) (rest : List Input) (off : Nat) (v : Word), off % 4 = 0 → off ≤ 0x7C →
    (∃ i t, decode (readPacket (BitVec.ofNat 8 off)) = .ok i ∧
      step { s with
          inputs := .hostAccess ⟨.read, Config.blockBase + off, .bits32, v⟩ :: rest } =
        exec i { s with inputs := rest } ∧ exec i { s with inputs := rest } = .next t) ∧
    (∃ i t, decode (writePacket (BitVec.ofNat 8 off) v) = .ok i ∧
      step { s with
          inputs := .hostAccess ⟨.write, Config.blockBase + off, .bits32, v⟩ :: rest } =
        exec i { s with inputs := rest } ∧ exec i { s with inputs := rest } = .next t)

/-- R52: an access of 8 or 16 bits, at an offset that is no multiple of 4, or outside the window is refused. -/
def Obligations.AccessOutsideInterfaceIsRefused : Prop :=
  ∀ (s : State) (rest : List Input) (a : HostAccess),
    (a.width ≠ .bits32 ∨ a.addr < Config.blockBase ∨ Config.blockBase + 128 ≤ a.addr ∨
      (a.addr - Config.blockBase) % 4 ≠ 0) →
    step { s with inputs := .hostAccess a :: rest } = .refused .accessOutsideInterface

/-- R9, R200: the block has no fault, so a run whose events all stay inside the interface never stops: any number of
steps has a next state, having taken that many events, or all of them if there are fewer, and the invariants of R40 hold
at its end if they held at its start. The list of events is the model's (log 5), and so is that a step with no event left
is the same state (log 6), on which the conclusion rests where the steps outnumber the events. -/
def Obligations.RunInsideInterfaceNeverStops : Prop :=
  ∀ (s : State) (n : Nat), s.staysInside = true →
    ∃ t, core.run n s = .next t ∧ t.inputs = s.inputs.drop n ∧ (s.Inv → t.Inv)

/-! ## Encoding -/

/-- Every operation, with every operand, decodes from its own encoding (R70, R71, R79). -/
def Obligations.DecodeReadsBackEveryEncoding : Prop :=
  ∀ i : Instr, decode (encode i) = .ok i

/-- Each packet that decodes is the encoding of what it decodes to: no packet is a second spelling, and no bit of it is
dropped (R70, R71; the byte layout is the model's, log 8). -/
def Obligations.EveryDecodedPacketIsAnEncoding : Prop :=
  ∀ (p : Packet) (i : Instr), decode p = .ok i → encode i = p

/-- R79, R80: a Format A descriptor decodes exactly when its OFF is a multiple of 4 up to 0x7C. -/
def Obligations.DescriptorDecodesIffOffsetIsARegister : Prop :=
  ∀ (off : Byte) (v : Word),
    ((∃ i, decode (readPacket off) = .ok i) ↔ (off.toNat % 4 = 0 ∧ off.toNat ≤ 0x7C)) ∧
    ((∃ i, decode (writePacket off v) = .ok i) ↔ (off.toNat % 4 = 0 ∧ off.toNat ≤ 0x7C))

/-- R79's map, written out: each of the 32 offsets with DIR = 0 and with DIR = 1 decodes to the operation that the table
names, a write with the four operand bytes low byte first, and both pulses of R71 decode. Beside it one refusal: OFF = 0x06
is no register (R80). The layout in bytes is the model's (log 8). -/
def Obligations.WrittenOutWordsDecode : Prop :=
  (∀ p ∈ ([
      (0x00, .rdLctCtrl), (0x04, .rdLctStatus), (0x08, .rdLctRxdata), (0x0C, .rdLctTxdata),
      (0x10, .rdLctReset), (0x14, .rdLctClear), (0x18, .rdRsvd18), (0x1C, .rdRsvd1C),
      (0x20, .rdCkClear), (0x24, .rdCkData), (0x28, .rdCkSum), (0x2C, .rdCkExpect),
      (0x30, .rdCkStatus), (0x34, .rdRsvd34), (0x38, .rdRsvd38), (0x3C, .rdRsvd3C),
      (0x40, .rdAdType), (0x44, .rdAdPort), (0x48, .rdAdHost0), (0x4C, .rdAdHost1),
      (0x50, .rdAdHost2), (0x54, .rdAdHost3), (0x58, .rdAdLen), (0x5C, .rdAdResult),
      (0x60, .rdAdBuf0), (0x64, .rdAdBuf1), (0x68, .rdAdBuf2), (0x6C, .rdAdBuf3),
      (0x70, .rdAdBuf4), (0x74, .rdAdEncode), (0x78, .rdAdDecode), (0x7C, .rdRsvd7C)] : List (Byte × Instr)),
    decode { format := .a, bytes := [p.1, 0x00] } = .ok p.2) ∧
  (∀ (b0 b1 b2 b3 : Byte), ∀ p ∈ ([
      (0x00, .wrLctCtrl), (0x04, .wrLctStatus), (0x08, .wrLctRxdata), (0x0C, .wrLctTxdata),
      (0x10, .wrLctReset), (0x14, .wrLctClear), (0x18, .wrRsvd18), (0x1C, .wrRsvd1C),
      (0x20, .wrCkClear), (0x24, .wrCkData), (0x28, .wrCkSum), (0x2C, .wrCkExpect),
      (0x30, .wrCkStatus), (0x34, .wrRsvd34), (0x38, .wrRsvd38), (0x3C, .wrRsvd3C),
      (0x40, .wrAdType), (0x44, .wrAdPort), (0x48, .wrAdHost0), (0x4C, .wrAdHost1),
      (0x50, .wrAdHost2), (0x54, .wrAdHost3), (0x58, .wrAdLen), (0x5C, .wrAdResult),
      (0x60, .wrAdBuf0), (0x64, .wrAdBuf1), (0x68, .wrAdBuf2), (0x6C, .wrAdBuf3),
      (0x70, .wrAdBuf4), (0x74, .wrAdEncode), (0x78, .wrAdDecode), (0x7C, .wrRsvd7C)] : List (Byte × (Word → Instr))),
    decode { format := .a, bytes := [p.1, 0x01, b0, b1, b2, b3] } = .ok (p.2 (b3 ++ b2 ++ b1 ++ b0))) ∧
  decode { format := .p, bytes := [0x00] } = .ok (.pulse false) ∧
  decode { format := .p, bytes := [0x01] } = .ok (.pulse true) ∧
  decode { format := .a, bytes := [0x06, 0x00] } = .error .noRegister

/-! ## The transport's registers -/

/-- R100: a read of LCT_CTRL answers EN in bit 0, W32 in bit 1, IE in bit 2 and 0 above, and changes nothing else. -/
def Obligations.ReadControlAnswersItsThreeFields : Prop :=
  ∀ s : State, ∃ w : Word, exec .rdLctCtrl s = .next { s with out := .readData w } ∧
    w.getLsbD 0 = s.lct.en ∧ w.getLsbD 1 = s.lct.w32 ∧ w.getLsbD 2 = s.lct.ie ∧ w.extractLsb' 3 29 = 0

/-- R107: a read of LCT_STATUS answers RXV, TXP, IRQ in bits 0, 1, 2, BITCNT in bits 12:8 and 0 elsewhere, and changes
nothing else. -/
def Obligations.ReadStatusAnswersFlagsAndCount : Prop :=
  ∀ s : State, ∃ w : Word, exec .rdLctStatus s = .next { s with out := .readData w } ∧
    w.getLsbD 0 = s.lct.rxv ∧ w.getLsbD 1 = s.lct.txp ∧ w.getLsbD 2 = (s.lct.ie && s.lct.rxv) ∧
    w.extractLsb' 3 5 = 0 ∧ w.extractLsb' 8 5 = s.lct.bitcnt ∧ w.extractLsb' 13 19 = 0

/-- R101: a read of LCT_RXDATA answers RXBUF AND mask(W) and clears RXV, nothing else; a second read answers the same
and then changes nothing. -/
def Obligations.ReadReceivedWordConsumesIt : Prop :=
  ∀ s : State, ∃ t : State,
    exec .rdLctRxdata s = .next t ∧
    t = { s with lct := { s.lct with rxv := false },
                 out := .readData (s.lct.rxbuf &&& (if s.lct.w32 then 0xFFFFFFFF else 0xFF)) } ∧
    exec .rdLctRxdata t = .next t

/-- R106: alignment puts a word in the top bits: the word itself at W = 32, its low byte in bits 31:24 at W = 8, and
zeros below. -/
def Obligations.AlignmentPutsWordInTopBits : Prop :=
  ∀ (l : Lct) (v : Word),
    (l.w32 = true → align l.width v = v) ∧
    (l.w32 = false → align l.width v = (v.extractLsb' 0 8 ++ 0#24)) ∧
    (∀ k, k < 32 - l.width → (align l.width v).getLsbD k = false)

/-- R102: a write of LCT_TXDATA puts the word, left-aligned at the current width, in TXBUF and sets TXP, whatever was
pending; nothing else changes, the word in progress among it. -/
def Obligations.WriteTransmitDataReplacesPendingWord : Prop :=
  ∀ (v : Word) (s : State),
    exec (.wrLctTxdata v) s = .next { s with
      lct := { s.lct with
        txbuf := (if s.lct.w32 then v else (v.extractLsb' 0 8 ++ 0#24)), txp := true }
      out := .nothing }

/-- R103: a write of LCT_CTRL stores EN, W32 and IE; when W32 changes it clears framing and both buffers in the same
step, and otherwise nothing. -/
def Obligations.WriteControlClearsOnWidthChangeOnly : Prop :=
  ∀ (v : Word) (s : State),
    exec (.wrLctCtrl v) s = .next { s with
      lct := if v.getLsbD 1 = s.lct.w32 then
          { s.lct with en := v.getLsbD 0, w32 := v.getLsbD 1, ie := v.getLsbD 2 }
        else
          { en := v.getLsbD 0, w32 := v.getLsbD 1, ie := v.getLsbD 2, rxv := false, txp := false
            bitcnt := 0, rxsr := 0, txsr := 0, rxbuf := 0, txbuf := 0 }
      out := .nothing }

/-- R104: the transport reset clears framing and both buffers and sets EN; W32 and IE and the codec stay. -/
def Obligations.TransportResetRestartsAndEnables : Prop :=
  ∀ (v : Word) (s : State),
    exec (.wrLctReset v) s = .next { s with
      lct :=
        { en := true, w32 := s.lct.w32, ie := s.lct.ie, rxv := false, txp := false
          bitcnt := 0, rxsr := 0, txsr := 0, rxbuf := 0, txbuf := 0 }
      out := .nothing }

/-- R105: clearing the buffers drops the received and the pending word and keeps framing. -/
def Obligations.ClearBuffersKeepsFraming : Prop :=
  ∀ (v : Word) (s : State),
    exec (.wrLctClear v) s = .next { s with
      lct := { s.lct with rxbuf := 0, rxv := false, txbuf := 0, txp := false }
      out := .nothing }

/-- R108, R109: LCT_TXDATA, LCT_RESET and LCT_CLEAR read 0 and do not act; writes of LCT_STATUS and LCT_RXDATA change
nothing. -/
def Obligations.TransportInertAccessesChangeNothing : Prop :=
  ∀ (v : Word) (s : State),
    exec .rdLctTxdata s = .next { s with out := .readData 0 } ∧
    exec .rdLctReset s = .next { s with out := .readData 0 } ∧
    exec .rdLctClear s = .next { s with out := .readData 0 } ∧
    exec (.wrLctStatus v) s = .next { s with out := .nothing } ∧
    exec (.wrLctRxdata v) s = .next { s with out := .nothing }

/-- R53: the six reserved offsets read 0 and ignore writes. -/
def Obligations.ReservedOffsetsReadZeroIgnoreWrites : Prop :=
  ∀ (v : Word) (s : State),
    (∀ i ∈ [Instr.rdRsvd18, .rdRsvd1C, .rdRsvd34, .rdRsvd38, .rdRsvd3C, .rdRsvd7C],
      exec i s = .next { s with out := .readData 0 }) ∧
    (∀ i ∈ [Instr.wrRsvd18 v, .wrRsvd1C v, .wrRsvd34 v, .wrRsvd38 v, .wrRsvd3C v, .wrRsvd7C v],
      exec i s = .next { s with out := .nothing })

/-! ## The pulse -/

/-- R120, a pulse while EN = 1: the whole next state. `t` is the register shifted out of: the pending word, or an
aligned idle word, at a word's start, and TXSR within a word. A word's last pulse stores the word and sets RXV. The
idle word is the model's free value, one draw for each word that underruns (log 2). -/
def Obligations.PulseExchangesOneBit : Prop :=
  ∀ (si : Bool) (s : State), s.lct.en = true →
    ∃ t r : Word,
      t = (if s.lct.bitcnt = 0 then
            (if s.lct.txp = true then s.lct.txbuf
             else align s.lct.width (Config.idleTxWord s.draws))
           else s.lct.txsr) ∧
      r = (s.lct.rxsr <<< 1) ||| (if si then 1 else 0) ∧
      exec (.pulse si) s = .next { s with
        lct := { s.lct with
          txp := (if s.lct.bitcnt = 0 then false else s.lct.txp)
          txsr := t <<< 1
          rxsr := r
          rxbuf := (if s.lct.bitcnt.toNat = s.lct.width - 1
            then r &&& (if s.lct.w32 then 0xFFFFFFFF else 0xFF) else s.lct.rxbuf)
          rxv := (if s.lct.bitcnt.toNat = s.lct.width - 1 then true else s.lct.rxv)
          bitcnt := (if s.lct.bitcnt.toNat = s.lct.width - 1 then 0 else s.lct.bitcnt + 1) }
        out := .serialOut (t.getLsbD 31)
        draws := if s.lct.bitcnt = 0 ∧ s.lct.txp = false then s.draws + 1 else s.draws }

/-- R121, a pulse while EN = 0: no state of the block changes. The level on SO is the model's free value (log 3). -/
def Obligations.PulseWhileDisabledChangesNothing : Prop :=
  ∀ (si : Bool) (s : State), s.lct.en = false →
    exec (.pulse si) s = .next { s with out := .serialOut (Config.soDisabled s.draws), draws := s.draws + 1 }

/-- R124: from a word start with a pending word x, W pulses, with any host accesses between them but those of LCT_CTRL,
LCT_RESET and LCT_CLEAR, send x and receive the W input bits, both most significant bit first, and leave RXV = 1 and
BITCNT = 0. -/
def Obligations.WholeWordGoesMostSignificantBitFirst : Prop :=
  ∀ (s : State) (x : Word) (first last : Bool) (mid : List Instr),
    s.lct.en = true → s.lct.bitcnt = 0 → s.lct.txp = true → s.lct.txbuf = align s.lct.width x →
    (∀ i ∈ mid, ∀ v, i ≠ .rdLctCtrl ∧ i ≠ .rdLctReset ∧ i ≠ .rdLctClear ∧
      i ≠ .wrLctCtrl v ∧ i ≠ .wrLctReset v ∧ i ≠ .wrLctClear v) →
    (pulseBits (.pulse first :: mid ++ [.pulse last])).length = s.lct.width →
    ∃ outs t, runOps (.pulse first :: mid ++ [.pulse last]) s = some (outs, t) ∧
      serialBits outs = bitsOfWord x s.lct.width ∧
      t.lct.rxbuf = wordOfBits (pulseBits (.pulse first :: mid ++ [.pulse last])) ∧
      t.lct.rxv = true ∧ t.lct.bitcnt = 0

/-- R123: a word that starts with nothing pending sends the W bits of one draw of IDLE_TX_WORD, whatever the draw is,
and no flag records it: the transport ends as after a pending word would. The counter of draws is the model's
(log 2, log 4). -/
def Obligations.UnderrunSendsOneIdleDraw : Prop :=
  ∀ (s : State) (bits : List Bool),
    s.lct.en = true → s.lct.bitcnt = 0 → s.lct.txp = false → bits.length = s.lct.width →
    ∃ outs t, runOps (bits.map .pulse) s = some (outs, t) ∧
      serialBits outs = bitsOfWord (Config.idleTxWord s.draws) s.lct.width ∧ t.draws = s.draws + 1 ∧
      ∀ x : Word, ∃ outs' t',
        runOps (bits.map .pulse)
          { s with lct := { s.lct with txp := true, txbuf := align s.lct.width x } } = some (outs', t') ∧
        t.lct = { t'.lct with txbuf := s.lct.txbuf }

/-- R126: a word written at a word start goes out as that word; one written at any point after the first pulse of word n
and before the first pulse of word n + 1 leaves word n as it was and goes out as word n + 1. Any operations may stand
between the pulses but another write of LCT_TXDATA (it would replace the word) and writes of LCT_CTRL, LCT_RESET and
LCT_CLEAR. -/
def Obligations.SendGoesOutAtNextWordStart : Prop :=
  ∀ (s : State) (x : Word) (pre post next : List Instr),
    s.lct.en = true → s.lct.bitcnt = 0 →
    (∀ i ∈ pre ++ post ++ next, ∀ v, i ≠ .wrLctTxdata v ∧ i ≠ .wrLctCtrl v ∧ i ≠ .wrLctReset v ∧ i ≠ .wrLctClear v) →
    1 ≤ (pulseBits pre).length → (pulseBits pre).length + (pulseBits post).length = s.lct.width →
    (pulseBits next).length = s.lct.width →
    (∃ outs t, runOps (.wrLctTxdata x :: (pre ++ post)) s = some (outs, t) ∧
      serialBits outs = bitsOfWord x s.lct.width) ∧
    (∃ outs t outs' t', runOps (pre ++ post) s = some (outs, t) ∧
      runOps (pre ++ .wrLctTxdata x :: (post ++ next)) s = some (outs', t') ∧
      serialBits outs' = serialBits outs ++ bitsOfWord x s.lct.width)

/-- R125: a word that completes while RXV = 1 replaces RXBUF and leaves RXV = 1, and nothing records the loss: the
next state is the one there would be had RXV been 0 and RXBUF anything. -/
def Obligations.OverrunKeepsLatestWordOnly : Prop :=
  ∀ (si : Bool) (s : State) (old : Word), s.lct.en = true → s.lct.bitcnt.toNat = s.lct.width - 1 → s.lct.rxv = true →
    ∃ t, exec (.pulse si) s = .next t ∧ t.lct.rxv = true ∧
      t.lct.rxbuf = ((s.lct.rxsr <<< 1) ||| (if si then 1 else 0)) &&& (if s.lct.w32 then 0xFFFFFFFF else 0xFF) ∧
      exec (.pulse si) { s with lct := { s.lct with rxv := false, rxbuf := old } } = .next t

/-! ## Invariants and whole-machine rules of the transport -/

/-- The invariants of R40 that speak of one state hold after reset. -/
def Obligations.InvariantHoldsAfterReset : Prop := State.reset.Inv

/-- The invariants of R40 that speak of one state are kept by every step, from every state that meets them. -/
def Obligations.EveryStepKeepsTheInvariant : Prop :=
  ∀ s t : State, s.Inv → step s = .next t → t.Inv

/-- TXSR holds only the bits not sent yet, and 0 between words: kept by every step from every state in which it and
the invariants of R40 hold. (Follows from R106 and R120; program P5 relies on it.) -/
def Obligations.EveryStepKeepsTransmitRegisterDrained : Prop :=
  State.reset.lct.txsrDrained ∧
  ∀ s t : State, s.Inv → s.lct.txsrDrained → step s = .next t → t.lct.txsrDrained

/-- R40's last clause: a step that clears the received word leaves RXV = 0 and RXBUF = 0, and from a state with
RXV = 0, as long as no word completes, RXV stays 0. -/
def Obligations.ClearedWordStaysUnreadUntilCompletion : Prop :=
  (∀ (s t : State) (e : Input) (rest : List Input), s.inputs = e :: rest → step s = .next t →
    clearsBuffers (fetch e) s = true → t.lct.rxv = false ∧ t.lct.rxbuf = 0) ∧
  (∀ (n : Nat) (s t : State), s.lct.rxv = false → core.run n s = .next t →
    (∀ (k : Nat) (u : State) (e : Input) (rest : List Input), k < n → core.run k s = .next u →
      u.inputs = e :: rest → completesWord (fetch e) u = false) →
    t.lct.rxv = false)

/-- R127: every change of W32 sets BITCNT to 0 in the same step, and BITCNT < W and RXBUF within W hold after every
step (from a state that meets the invariants of R40). -/
def Obligations.WidthChangeRestartsTheWord : Prop :=
  ∀ s t : State, s.Inv → step s = .next t →
    (t.lct.w32 ≠ s.lct.w32 → t.lct.bitcnt = 0 ∧ t.lct.rxbuf = 0 ∧ t.lct.rxv = false) ∧
    t.lct.bitcnt.toNat < t.lct.width ∧ t.lct.rxbuf &&& ~~~mask t.lct.width = 0

/-- R42, R122, R128: at an operation BITCNT, RXV and TXP move only as the rules say. BITCNT changes only at a pulse while
EN = 1, at a transport reset or at a width change; RXV rises only at the pulse that completes a word (R122, read of RXV
alone: log 26), and falls only at a read of LCT_RXDATA, a reset, a clear or a width change; TXP rises only at a write of
LCT_TXDATA, and falls only at a word start, a reset, a clear or a width change. -/
def Obligations.TransportFlagsMoveOnlyByTheirEvents : Prop :=
  ∀ (i : Instr) (s t : State), exec i s = .next t →
    (t.lct.bitcnt ≠ s.lct.bitcnt →
      (∃ si, i = .pulse si ∧ s.lct.en = true) ∨ (∃ v, i = .wrLctReset v) ∨
      (∃ v, i = .wrLctCtrl v ∧ v.getLsbD 1 ≠ s.lct.w32)) ∧
    (s.lct.rxv = false → t.lct.rxv = true →
      ∃ si, i = .pulse si ∧ s.lct.en = true ∧ s.lct.bitcnt.toNat = s.lct.width - 1) ∧
    (s.lct.rxv = true → t.lct.rxv = false →
      i = .rdLctRxdata ∨ (∃ v, i = .wrLctReset v) ∨ (∃ v, i = .wrLctClear v) ∨
      (∃ v, i = .wrLctCtrl v ∧ v.getLsbD 1 ≠ s.lct.w32)) ∧
    (s.lct.txp = false → t.lct.txp = true → ∃ v, i = .wrLctTxdata v) ∧
    (s.lct.txp = true → t.lct.txp = false →
      (∃ si, i = .pulse si ∧ s.lct.en = true ∧ s.lct.bitcnt = 0) ∨ (∃ v, i = .wrLctReset v) ∨
      (∃ v, i = .wrLctClear v) ∨ (∃ v, i = .wrLctCtrl v ∧ v.getLsbD 1 ≠ s.lct.w32))

/-- R202: IRQ is IE AND RXV after every operation. It rises only at the pulse that completes a word while IE = 1, or at
a write of IE = 1 while RXV = 1; it falls only when RXV is cleared or IE is written 0; LCT_STATUS shows it in
bit 2. -/
def Obligations.InterruptRequestIsALevel : Prop :=
  (∀ s : State, s.irq = (s.lct.ie && s.lct.rxv)) ∧
  (∀ (i : Instr) (s t : State), exec i s = .next t → s.irq = false → t.irq = true →
    (∃ si, i = .pulse si ∧ s.lct.en = true ∧ s.lct.bitcnt.toNat = s.lct.width - 1 ∧ s.lct.ie = true) ∨
    (∃ v, i = .wrLctCtrl v ∧ v.getLsbD 2 = true ∧ s.lct.rxv = true)) ∧
  (∀ (i : Instr) (s t : State), exec i s = .next t → s.irq = true → t.irq = false →
    t.lct.rxv = false ∨ (∃ v, i = .wrLctCtrl v ∧ v.getLsbD 2 = false)) ∧
  (∀ s : State, ∃ w : Word, exec .rdLctStatus s = .next { s with out := .readData w } ∧ w.getLsbD 2 = s.irq)

/-- R204: an asserted request is cleared exactly by consuming the word (a read of LCT_RXDATA) or dropping it (LCT_CLEAR,
LCT_RESET, a width change); beside these only a write of IE = 0 takes the request down (R202). -/
def Obligations.RequestStaysUntilAcknowledged : Prop :=
  ∀ (i : Instr) (s t : State), s.irq = true → exec i s = .next t →
    (t.irq = false ↔
      i = .rdLctRxdata ∨ (∃ v, i = .wrLctClear v) ∨ (∃ v, i = .wrLctReset v) ∨
      (∃ v, i = .wrLctCtrl v ∧ (v.getLsbD 1 ≠ s.lct.w32 ∨ v.getLsbD 2 = false)))

/-- R2: the two sub-blocks have no state in common. An operation of one leaves the other's state as it was, and its own
effect and answer are the same whatever the other's state is; a reserved access touches neither. -/
def Obligations.SubBlocksHaveNoStateInCommon : Prop :=
  (∀ (i : Instr) (s t : State), exec i s = .next t → i.subBlock ≠ .cas → t.cas = s.cas) ∧
  (∀ (i : Instr) (s t : State), exec i s = .next t → i.subBlock ≠ .lct → t.lct = s.lct ∧ t.draws = s.draws) ∧
  (∀ (i : Instr) (s t : State) (c : Cas), exec i s = .next t → i.subBlock ≠ .cas →
    exec i { s with cas := c } = .next { t with cas := c }) ∧
  (∀ (i : Instr) (s t : State) (l : Lct) (n : Nat), exec i s = .next t → i.subBlock ≠ .lct →
    exec i { s with lct := l, draws := n } = .next { t with lct := l, draws := n })

/-- R54: every read but that of LCT_RXDATA changes no state of the block; every write but that of CK_DATA, repeated at
once, leaves the state the first write left; each write of CK_DATA adds its byte again. -/
def Obligations.AccessesAreIdempotentButTwo : Prop :=
  (∀ (off : Byte) (i : Instr) (s : State), decode (readPacket off) = .ok i → i ≠ .rdLctRxdata →
    ∃ v, exec i s = .next { s with out := .readData v }) ∧
  (∀ (off : Byte) (v : Word) (i : Instr) (s t : State), decode (writePacket off v) = .ok i → i ≠ .wrCkData v →
    exec i s = .next t → exec i t = .next t) ∧
  (∀ (v : Word) (s t u : State), exec (.wrCkData v) s = .next t → exec (.wrCkData v) t = .next u →
    u.cas.acc.toNat = (s.cas.acc.toNat + 2 * (v.toNat % 256)) % 65536)

/-! ## The checksum unit -/

/-- R140, R141, R143: CK_CLEAR zeroes ACC, CK_DATA adds the low byte of its operand modulo 65536, CK_EXPECT stores bits
15:0; nothing else changes. -/
def Obligations.ChecksumWritesUpdateAccumulatorAndExpected : Prop :=
  ∀ (v : Word) (s : State),
    exec (.wrCkClear v) s = .next { s with cas := { s.cas with acc := 0 }, out := .nothing } ∧
    (∃ a : Half, a.toNat = (s.cas.acc.toNat + v.toNat % 256) % 65536 ∧
      exec (.wrCkData v) s = .next { s with cas := { s.cas with acc := a }, out := .nothing }) ∧
    (∃ x : Half, x.toNat = v.toNat % 65536 ∧
      exec (.wrCkExpect v) s = .next { s with cas := { s.cas with expect := x }, out := .nothing })

/-- R142, R144, R145: CK_SUM answers ACC, CK_EXPECT answers EXPECT, CK_STATUS answers 1 if they are equal and 0
otherwise; no state of the block changes. -/
def Obligations.ChecksumReadsAnswerSumExpectedAndMatch : Prop :=
  ∀ s : State,
    (∃ v : Word, v.toNat = s.cas.acc.toNat ∧ exec .rdCkSum s = .next { s with out := .readData v }) ∧
    (∃ v : Word, v.toNat = s.cas.expect.toNat ∧ exec .rdCkExpect s = .next { s with out := .readData v }) ∧
    exec .rdCkStatus s = .next { s with out := .readData (if s.cas.acc = s.cas.expect then 1 else 0) }

/-- R146, R147: CK_CLEAR and CK_DATA read 0 and do not act; writes of CK_SUM and CK_STATUS change nothing. -/
def Obligations.ChecksumInertAccessesChangeNothing : Prop :=
  ∀ (v : Word) (s : State),
    exec .rdCkClear s = .next { s with out := .readData 0 } ∧
    exec .rdCkData s = .next { s with out := .readData 0 } ∧
    exec (.wrCkSum v) s = .next { s with out := .nothing } ∧
    exec (.wrCkStatus v) s = .next { s with out := .nothing }

/-- R148: the checksum of a list is the sum of its bytes modulo 65536, and it is what CK_SUM reads after CK_CLEAR and one
CK_DATA for each byte, whatever operations come between that do not write CK_CLEAR or CK_DATA (`fedBytes` are the bytes
that the writes of CK_DATA carry). The last clause is the procedure, which the model runs with no other event in between
(log 23): the transport, EXPECT and the serializer stay as they were. -/
def Obligations.ChecksumProcedureComputesByteSum : Prop :=
  (∀ b : List Byte, (checksum b).toNat = (b.map BitVec.toNat).sum % 65536) ∧
  (∀ (c : Word) (ops : List Instr) (s : State), (∀ i ∈ ops, ∀ v, i ≠ .wrCkClear v) →
    ∃ outs t, runOps (.wrCkClear c :: ops ++ [.rdCkSum]) s = some (outs, t) ∧
      t.out = .readData ((checksum (fedBytes ops)).setWidth 32)) ∧
  (∀ (b : List Byte) (s : State), ∃ t, procChecksum b s = some (checksum b, t) ∧
    t.cas = { s.cas with acc := checksum b } ∧ t.lct = s.lct ∧ t.inputs = s.inputs)

/-- R149, R150: the trailer is the checksum, high byte first, and a list verifies when the big-endian trailer equals its
checksum. CK_STATUS answers that in bit 0 after CK_CLEAR, one CK_DATA for each byte and a write of CK_EXPECT before, among
or after them, whatever operations come between that write none of the three. The procedures, which the model runs with no
other event in between (log 23), answer the same, and so they do, with the same end state, where the block puts CK_SUM into
and takes CK_EXPECT out of big-endian order, as R57 has it, in place of the host (log 29). -/
def Obligations.VerifyProcedureComparesBigEndianTrailer : Prop :=
  ∀ (b : List Byte) (hi lo : Byte) (c : Word) (p q : List Instr) (s : State),
    (∃ t, procAppendChecksum b s = some (appendChecksum b, t) ∧ blockAppendChecksum b s = some (appendChecksum b, t)) ∧
    (∀ x y, appendChecksum b = [x, y] → x.toNat * 256 + y.toNat = (checksum b).toNat) ∧
    (∃ t, procVerify b hi lo s = some (verify b [hi, lo], t) ∧ blockVerify b hi lo s = some (verify b [hi, lo], t) ∧
      t.cas.expectTrailer = [hi, lo] ∧ t.cas.sumTrailer = appendChecksum b) ∧
    (verify b [hi, lo] = true ↔ hi.toNat * 256 + lo.toNat = (checksum b).toNat) ∧
    ((∀ i ∈ p ++ q, ∀ v, i ≠ .wrCkClear v) → (∀ i ∈ q, ∀ v, i ≠ .wrCkExpect v) →
      ∃ outs t, runOps (.wrCkClear c :: p ++ .wrCkExpect ((bigEndian hi lo).setWidth 32) :: q ++ [.rdCkStatus]) s =
          some (outs, t) ∧
        t.cas.matches = verify (fedBytes (p ++ q)) [hi, lo] ∧
        t.out = .readData (if verify (fedBytes (p ++ q)) [hi, lo] then 1 else 0)) ∧
    ((∀ i ∈ p ++ q, ∀ v, i ≠ .wrCkExpect v) → (∀ i ∈ q, ∀ v, i ≠ .wrCkClear v) →
      ∃ outs t, runOps (.wrCkExpect ((bigEndian hi lo).setWidth 32) :: p ++ .wrCkClear c :: q ++ [.rdCkStatus]) s =
          some (outs, t) ∧
        t.cas.matches = verify (fedBytes q) [hi, lo] ∧
        t.out = .readData (if verify (fedBytes q) [hi, lo] then 1 else 0))

/-- R151: no list of fewer than 258 bytes wraps, 257 bytes 0xFF just fit, and 258 of them give 0x00FE. -/
def Obligations.ChecksumWrapsOnlyFrom258Bytes : Prop :=
  (∀ b : List Byte, b.length < 258 → (checksum b).toNat = (b.map BitVec.toNat).sum) ∧
  checksum (List.replicate 257 0xFF) = 0xFFFF ∧ checksum (List.replicate 258 0xFF) = 0x00FE

/-- R152: the checksum of a concatenation is the sum of the checksums, permutations keep it, appended zero bytes keep it,
and every list verifies against its own trailer. -/
def Obligations.ChecksumAlgebra : Prop :=
  (∀ a b : List Byte, checksum (a ++ b) = checksum a + checksum b) ∧
  (∀ a b : List Byte, a.Perm b → checksum a = checksum b) ∧
  (∀ (a : List Byte) (n : Nat), checksum (a ++ List.replicate n 0) = checksum a) ∧
  (∀ a : List Byte, verify a (appendChecksum a) = true)

/-- R153: a list that verifies against a trailer no longer does after one bit of one byte, or of the trailer, flips. -/
def Obligations.EverySingleBitErrorIsDetected : Prop :=
  ∀ (a : List Byte) (hi lo : Byte), verify a [hi, lo] = true →
    (∀ (n : Nat) (h : n < a.length) (k : Nat), k < 8 →
      verify (a.set n (a[n] ^^^ (1#8 <<< k))) [hi, lo] = false) ∧
    (∀ k, k < 8 → verify a [hi ^^^ (1#8 <<< k), lo] = false ∧ verify a [hi, lo ^^^ (1#8 <<< k)] = false)

/-! ## The address serializer -/

/-- R166: every register of the serializer reads its field, a byte array's register four bytes with the lowest index in
the lowest bits; no state of the block changes. -/
def Obligations.SerializerReadsAnswerTheirFields : Prop :=
  ∀ s : State,
    (∃ v : Word, v.toNat = s.cas.type.toNat ∧ exec .rdAdType s = .next { s with out := .readData v }) ∧
    (∃ v : Word, v.toNat = s.cas.port.toNat ∧ exec .rdAdPort s = .next { s with out := .readData v }) ∧
    (∃ v : Word, v.toNat = s.cas.len.toNat ∧ exec .rdAdLen s = .next { s with out := .readData v }) ∧
    (∃ v : Word, v.toNat = s.cas.result.toNat ∧ exec .rdAdResult s = .next { s with out := .readData v }) ∧
    (∀ (i : Instr) (k : Nat), (i, k) ∈ [(Instr.rdAdHost0, 0), (.rdAdHost1, 1), (.rdAdHost2, 2), (.rdAdHost3, 3)] →
      ∃ v : Word, exec i s = .next { s with out := .readData v } ∧
        ∀ j, j < 4 → s.cas.host[4 * k + j]? = some (v.extractLsb' (8 * j) 8)) ∧
    (∀ (i : Instr) (k : Nat),
      (i, k) ∈ [(Instr.rdAdBuf0, 0), (.rdAdBuf1, 1), (.rdAdBuf2, 2), (.rdAdBuf3, 3), (.rdAdBuf4, 4)] →
      ∃ v : Word, exec i s = .next { s with out := .readData v } ∧
        ∀ j, j < 4 → s.cas.buf[4 * k + j]? = some (v.extractLsb' (8 * j) 8))

/-- R167: every writable register of the serializer stores its field of the operand, a byte array's register its four
bytes and no other byte; nothing else of the block changes. -/
def Obligations.SerializerWritesStoreTheirFields : Prop :=
  ∀ (v : Word) (s : State),
    (∃ x : BitVec 2, x.toNat = v.toNat % 4 ∧
      exec (.wrAdType v) s = .next { s with cas := { s.cas with type := x }, out := .nothing }) ∧
    (∃ x : Half, x.toNat = v.toNat % 65536 ∧
      exec (.wrAdPort v) s = .next { s with cas := { s.cas with port := x }, out := .nothing }) ∧
    (∃ x : Byte, x.toNat = v.toNat % 256 ∧
      exec (.wrAdLen v) s = .next { s with cas := { s.cas with len := x }, out := .nothing }) ∧
    (∀ (i : Instr) (k : Nat),
      (i, k) ∈ [(Instr.wrAdHost0 v, 0), (.wrAdHost1 v, 1), (.wrAdHost2 v, 2), (.wrAdHost3 v, 3)] →
      ∃ h : Vector Byte 16, exec i s = .next { s with cas := { s.cas with host := h }, out := .nothing } ∧
        ∀ n (hn : n < 16), h[n] =
          if n / 4 = k then v.extractLsb' (8 * (n % 4)) 8 else s.cas.host[n]) ∧
    (∀ (i : Instr) (k : Nat),
      (i, k) ∈ [(Instr.wrAdBuf0 v, 0), (.wrAdBuf1 v, 1), (.wrAdBuf2 v, 2), (.wrAdBuf3 v, 3), (.wrAdBuf4 v, 4)] →
      ∃ b : Vector Byte 20, exec i s = .next { s with cas := { s.cas with buf := b }, out := .nothing } ∧
        ∀ n (hn : n < 20), b[n] =
          if n / 4 = k then v.extractLsb' (8 * (n % 4)) 8 else s.cas.buf[n])

/-- R168: AD_ENCODE and AD_DECODE read 0 and do not act; a write of AD_RESULT changes nothing. -/
def Obligations.SerializerInertAccessesChangeNothing : Prop :=
  ∀ (v : Word) (s : State),
    exec .rdAdEncode s = .next { s with out := .readData 0 } ∧
    exec .rdAdDecode s = .next { s with out := .readData 0 } ∧
    exec (.wrAdResult v) s = .next { s with out := .nothing }

/-- R160: AD_ENCODE writes LEN (1, 7, 19, or 0 for TYPE = 3) and the first LEN bytes of BUF (tag, port high, port low,
host bytes); bytes from LEN up and every other field stay. The tag bytes are free (log 1). -/
def Obligations.EncodeStrobeWritesTheRecordBytes : Prop :=
  ∀ (v : Word) (s : State), ∃ (b : Vector Byte 20) (n : Byte) (tag : Byte),
    exec (.wrAdEncode v) s = .next { s with cas := { s.cas with buf := b, len := n }, out := .nothing } ∧
    n = (if s.cas.type = 0 then 1 else if s.cas.type = 1 then 7 else if s.cas.type = 2 then 19 else 0) ∧
    tag = (if s.cas.type = 0 then Config.tags.none else if s.cas.type = 1 then Config.tags.ipv4
      else Config.tags.ipv6) ∧
    (∀ k, k < 20 → n.toNat ≤ k → b[k]? = s.cas.buf[k]?) ∧
    (0 < n.toNat → b[0] = tag) ∧
    (1 < n.toNat → b[1].toNat * 256 + b[2].toNat = s.cas.port.toNat) ∧
    (∀ k, 3 ≤ k → k < n.toNat → b[k]? = s.cas.host[k - 3]?)

/-- R161: AD_DECODE accepts a None tag with LEN at least 1, an IPv4 tag with at least 7, an IPv6 tag with at least 19,
writing TYPE, RESULT and that variant's fields; otherwise RESULT = 0 and nothing else. BUF and LEN stay. The tag bytes
are free (log 1). -/
def Obligations.DecodeStrobeReadsTheRecordBytes : Prop :=
  ∀ (v : Word) (s : State), ∃ (p : Half) (h4 h16 : Vector Byte 16),
    p.toNat = s.cas.buf[1].toNat * 256 + s.cas.buf[2].toNat ∧
    (∀ k, k < 16 → h4[k]? = if k < 4 then s.cas.buf[k + 3]? else s.cas.host[k]?) ∧
    (∀ k, k < 16 → h16[k]? = s.cas.buf[k + 3]?) ∧
    exec (.wrAdDecode v) s = .next { s with
      cas := (if 1 ≤ s.cas.len.toNat ∧ s.cas.buf[0] = Config.tags.none then
          { s.cas with type := 0, result := 1 }
        else if 7 ≤ s.cas.len.toNat ∧ s.cas.buf[0] = Config.tags.ipv4 then
          { s.cas with type := 1, port := p, host := h4, result := 7 }
        else if 19 ≤ s.cas.len.toNat ∧ s.cas.buf[0] = Config.tags.ipv6 then
          { s.cas with type := 2, port := p, host := h16, result := 19 }
        else { s.cas with result := 0 })
      out := .nothing }

/-- R169, R84: both encode sequences over the registers, R169's and R84's expansion of ENCODE_ADDRESS (which reads all five
registers of BUF), answer exactly `encode_address` of the record, for every record and from every state, and leave the
transport and the checksum unit as they were. What is written for absent fields, and that no other event comes between,
are the model's (log 23). -/
def Obligations.EncodeProcedureGivesWireEncoding : Prop :=
  ∀ (a : AddressRecord) (s : State),
    (∃ t, procEncodeAddress a s = some (encodeAddress Config.tags a, t) ∧
      t.lct = s.lct ∧ t.cas.acc = s.cas.acc ∧ t.cas.expect = s.cas.expect) ∧
    (∃ t, pseudoEncodeAddress a s = some (encodeAddress Config.tags a, t) ∧
      t.lct = s.lct ∧ t.cas.acc = s.cas.acc ∧ t.cas.expect = s.cas.expect)

/-- R170: the decode sequence over the registers answers exactly `decode_address` of the list, for every list and from
every state, and leaves the transport and the checksum unit as they were. R84's expansion of DECODE_ADDRESS writes the
length itself, of which LEN keeps the low 8 bits, so it answers `decode_address` of the first `n mod 256` bytes: of the
whole list if it has fewer than 256. What fills BUF past the list, and that no other event comes between, are the model's
(log 23), and so is the reading of R84's length as the number of bytes (log 28). -/
def Obligations.DecodeProcedureGivesDecodedRecord : Prop :=
  ∀ (b : List Byte) (s : State),
    (∃ t, procDecodeAddress b s = some (decodeAddress Config.tags b, t) ∧
      t.lct = s.lct ∧ t.cas.acc = s.cas.acc ∧ t.cas.expect = s.cas.expect) ∧
    (∃ t, pseudoDecodeAddress b s = some (decodeAddress Config.tags (b.take (b.length % 256)), t) ∧
      t.lct = s.lct ∧ t.cas.acc = s.cas.acc ∧ t.cas.expect = s.cas.expect)

/-- R171: decoding an encoded record gives it back with its length; and AD_DECODE after AD_ENCODE with TYPE 0, 1 or 2, any
reads and pulses in between, leaves RESULT = LEN and TYPE, PORT and HOST as they were. -/
def Obligations.EncodedAddressDecodesToItself : Prop :=
  (∀ (g : Config.Tags) (a : AddressRecord), g.distinct = true →
    decodeAddress g (encodeAddress g a) = (some a, (encodeAddress g a).length)) ∧
  (∀ (v w : Word) (mid : List Instr) (s : State), s.cas.type ≠ 3 →
    (∀ i ∈ mid, (∃ off, decode (readPacket off) = .ok i) ∨ ∃ si, i = .pulse si) →
    ∃ outs u, runOps (.wrAdEncode v :: mid ++ [.wrAdDecode w]) s = some (outs, u) ∧
      u.cas.result = u.cas.len ∧ u.cas.type = s.cas.type ∧ u.cas.port = s.cas.port ∧ u.cas.host = s.cas.host)

/-- R173: an accepted list consumes 1, 7 or 19 bytes, and bytes after an encoded record are not examined. Beside it, the
pure part of R172: an empty list and a list with an unknown tag consume 0 bytes, a None tag consumes 1. -/
def Obligations.DecodeRejectsUnknownAndIgnoresTrailing : Prop :=
  ∀ g : Config.Tags, g.distinct = true →
    decodeAddress g [] = (none, 0) ∧
    (∀ (t : Byte) (c : List Byte), t ≠ g.none → t ≠ g.ipv4 → t ≠ g.ipv6 → decodeAddress g (t :: c) = (none, 0)) ∧
    decodeAddress g [g.none] = (some .none, 1) ∧
    (∀ (b : List Byte) (a : AddressRecord) (n : Nat), decodeAddress g b = (some a, n) → n = 1 ∨ n = 7 ∨ n = 19) ∧
    (∀ (a : AddressRecord) (c : List Byte),
      decodeAddress g (encodeAddress g a ++ c) = (some a, (encodeAddress g a).length))

/-! ## The command frame -/

/-- R180, R181, R183 (that a call with delivered > len(buf) is refused before any gate, also where requested = 0, is the
model's order: log 22): a frame is accepted exactly when the call is legal and all gates pass on the clamped length
L = min(requested, delivered, MAX_FRAME_SIZE): L > 2 and bytes L-2 and L-1, big-endian, equal the checksum of the
bytes before; then the command id is byte 0 and the payload the L - 3 bytes after it. A call with
delivered > len(buf) is refused, and every other frame is dropped. -/
def Obligations.FrameAcceptedExactlyWhenGatesPass : Prop :=
  ∀ (m : Nat) (c : FrameCall),
    (frameCheck m c = .refused ↔ c.buf.length < c.delivered) ∧
    (∀ id payload, frameCheck m c = .accept id payload ↔
      (c.delivered ≤ c.buf.length ∧ ∃ n hi lo, n = min c.requested (min c.delivered m) ∧ 2 < n ∧
        c.buf[n - 2]? = some hi ∧ c.buf[n - 1]? = some lo ∧
        hi.toNat * 256 + lo.toNat = (checksum (c.buf.take (n - 2))).toNat ∧
        c.buf[0]? = some id ∧ payload = (c.buf.drop 1).take (n - 3) ∧ payload.length = n - 3)) ∧
    (frameCheck m c = .drop ↔
      frameCheck m c ≠ .refused ∧ ∀ id payload, frameCheck m c ≠ .accept id payload)

/-- R184, R185: frame_check over the register interface answers exactly what the pure function does, from every state,
and changes no state of the block but ACC and EXPECT. That a call with delivered > len(buf) is refused before any access
and any gate is the model's (log 22), and so is that no other event comes between the accesses (log 23). The answer and the
end state are the same where the block takes the trailer out of big-endian order, as R57 has it, in place of the host
(log 29). -/
def Obligations.FrameProcedureComputesFrameCheck : Prop :=
  ∀ (m : Nat) (c : FrameCall) (s : State), ∃ t acc expect,
    procFrameCheck m c s = some (frameCheck m c, t) ∧ blockFrameCheck m c s = some (frameCheck m c, t) ∧ t.lct = s.lct ∧ t.inputs = s.inputs ∧
    t.cas = { s.cas with acc := acc, expect := expect }

/-- R186: gate 3 applied in its place between gates 2 and 4, or after frame_check, gives the same answer, for every
marking of the command ids. -/
def Obligations.SessionGatePositionIsUnobservable : Prop :=
  ∀ (exclusive : Byte → Bool) (active : Bool) (m : Nat) (c : FrameCall),
    frameCheckInSession exclusive active m c = gate3After exclusive active (frameCheck m c)

/-! ## The host's procedures -/

/-- R110, R116: INITIALIZE, from any state, leaves EN = 1, W32 = 0, IE = 1, nothing received or pending and framing at
a word start; TEARDOWN leaves the transport disabled, 8 bits wide, disarmed, with no word received or pending. That no other
event comes between the accesses is the model's (log 23): a pulse after INITIALIZE's reset would move the framing on. -/
def Obligations.InitializeArmsAndTeardownDisarms : Prop :=
  ∀ s : State,
    (∃ t, accesses procInitialize s = some t ∧
      t.lct =
        { en := true, w32 := false, ie := true, rxv := false, txp := false
          bitcnt := 0, rxsr := 0, txsr := 0, rxbuf := 0, txbuf := 0 } ∧ t.cas = s.cas) ∧
    (∃ t, accesses procTeardown s = some t ∧
      t.lct.en = false ∧ t.lct.w32 = false ∧ t.lct.ie = false ∧ t.lct.rxv = false ∧ t.lct.txp = false ∧
      t.lct.rxbuf = 0 ∧ t.lct.txbuf = 0 ∧ t.cas = s.cas)

/-- R114: SET_WORD_WIDTH sets W32 to its argument and keeps EN and IE; a change of width clears as R103 says, and no
change leaves the transport exactly as it was. That no other event comes between the read and the write is the model's
(log 23): R114 lets pulses and accesses to other registers come there, which can change the transport themselves. -/
def Obligations.SetWordWidthKeepsOtherControls : Prop :=
  ∀ (b : Bool) (s : State), ∃ t, procSetWordWidth b s = some t ∧ t.cas = s.cas ∧
    t.lct = if b = s.lct.w32 then s.lct else
      { en := s.lct.en, w32 := b, ie := s.lct.ie, rxv := false, txp := false
        bitcnt := 0, rxsr := 0, txsr := 0, rxbuf := 0, txbuf := 0 }

/-- R117: a polling host stops at the first read of LCT_STATUS that finds RXV = 1, with the received word still held:
if it stops, RXV is 1 and the answer's bit 0 shows it; if a word is held already, or W pulses of an enabled transport
complete one, the first read stops it. (That the peer's pulses come in lists between the reads is the model's,
log 23.) -/
def Obligations.PollingStopsWhenAWordIsHeld : Prop :=
  (∀ (batches : List (List Bool)) (s t : State) (w : Word), procWaitRx batches s = some (w, t) →
    w.getLsbD 0 = true ∧ t.lct.rxv = true) ∧
  (∀ (more : List (List Bool)) (s : State), s.lct.rxv = true → ∃ w t, procWaitRx ([] :: more) s = some (w, t) ∧
    t.lct = s.lct) ∧
  (∀ (bits : List Bool) (more : List (List Bool)) (s : State), s.lct.en = true → s.lct.bitcnt = 0 →
    bits.length = s.lct.width → ∃ w t, procWaitRx (bits :: more) s = some (w, t) ∧
    t.lct.rxbuf = wordOfBits bits)
end

