-- ==== Sys2Proof/Laws/State.lean ====
section
/-! SUPPORT. One lemma per field per update of the state, true by rfl, so that no proof unfolds an update. -/

namespace Sys2Proof.Machine

@[simp] theorem State.setLct_lct (s : State) (l : Lct) : (s.setLct l).lct = l := rfl
@[simp] theorem State.setLct_cas (s : State) (l : Lct) : (s.setLct l).cas = s.cas := rfl
@[simp] theorem State.setLct_out (s : State) (l : Lct) : (s.setLct l).out = s.out := rfl
@[simp] theorem State.setLct_draws (s : State) (l : Lct) : (s.setLct l).draws = s.draws := rfl
@[simp] theorem State.setLct_inputs (s : State) (l : Lct) : (s.setLct l).inputs = s.inputs := rfl
@[simp] theorem State.setLct_self (s : State) : s.setLct s.lct = s := rfl
@[simp] theorem State.setLct_setLct (s : State) (l l2 : Lct) : (s.setLct l).setLct l2 = s.setLct l2 := rfl

@[simp] theorem State.setCas_lct (s : State) (c : Cas) : (s.setCas c).lct = s.lct := rfl
@[simp] theorem State.setCas_cas (s : State) (c : Cas) : (s.setCas c).cas = c := rfl
@[simp] theorem State.setCas_out (s : State) (c : Cas) : (s.setCas c).out = s.out := rfl
@[simp] theorem State.setCas_draws (s : State) (c : Cas) : (s.setCas c).draws = s.draws := rfl
@[simp] theorem State.setCas_inputs (s : State) (c : Cas) : (s.setCas c).inputs = s.inputs := rfl
@[simp] theorem State.setCas_self (s : State) : s.setCas s.cas = s := rfl
@[simp] theorem State.setCas_setCas (s : State) (c c2 : Cas) : (s.setCas c).setCas c2 = s.setCas c2 := rfl

@[simp] theorem State.setOut_lct (s : State) (o : Output) : (s.setOut o).lct = s.lct := rfl
@[simp] theorem State.setOut_cas (s : State) (o : Output) : (s.setOut o).cas = s.cas := rfl
@[simp] theorem State.setOut_out (s : State) (o : Output) : (s.setOut o).out = o := rfl
@[simp] theorem State.setOut_draws (s : State) (o : Output) : (s.setOut o).draws = s.draws := rfl
@[simp] theorem State.setOut_inputs (s : State) (o : Output) : (s.setOut o).inputs = s.inputs := rfl
@[simp] theorem State.setOut_self (s : State) : s.setOut s.out = s := rfl
@[simp] theorem State.setOut_setOut (s : State) (o o2 : Output) : (s.setOut o).setOut o2 = s.setOut o2 := rfl

@[simp] theorem State.setDraws_lct (s : State) (n : Nat) : (s.setDraws n).lct = s.lct := rfl
@[simp] theorem State.setDraws_cas (s : State) (n : Nat) : (s.setDraws n).cas = s.cas := rfl
@[simp] theorem State.setDraws_out (s : State) (n : Nat) : (s.setDraws n).out = s.out := rfl
@[simp] theorem State.setDraws_draws (s : State) (n : Nat) : (s.setDraws n).draws = n := rfl
@[simp] theorem State.setDraws_inputs (s : State) (n : Nat) : (s.setDraws n).inputs = s.inputs := rfl
@[simp] theorem State.setDraws_self (s : State) : s.setDraws s.draws = s := rfl
@[simp] theorem State.setDraws_setDraws (s : State) (n n2 : Nat) : (s.setDraws n).setDraws n2 = s.setDraws n2 := rfl

@[simp] theorem State.setInputs_lct (s : State) (is : List Input) : (s.setInputs is).lct = s.lct := rfl
@[simp] theorem State.setInputs_cas (s : State) (is : List Input) : (s.setInputs is).cas = s.cas := rfl
@[simp] theorem State.setInputs_out (s : State) (is : List Input) : (s.setInputs is).out = s.out := rfl
@[simp] theorem State.setInputs_draws (s : State) (is : List Input) : (s.setInputs is).draws = s.draws := rfl
@[simp] theorem State.setInputs_inputs (s : State) (is : List Input) : (s.setInputs is).inputs = is := rfl
@[simp] theorem State.setInputs_self (s : State) : s.setInputs s.inputs = s := rfl
@[simp] theorem State.setInputs_setInputs (s : State) (is is2 : List Input) : (s.setInputs is).setInputs is2 = s.setInputs is2 := rfl

@[simp] theorem State.answer_lct (s : State) (v : Word) : (s.answer v).lct = s.lct := rfl
@[simp] theorem State.answer_cas (s : State) (v : Word) : (s.answer v).cas = s.cas := rfl
@[simp] theorem State.answer_out (s : State) (v : Word) : (s.answer v).out = .readData v := rfl
@[simp] theorem State.answer_draws (s : State) (v : Word) : (s.answer v).draws = s.draws := rfl
@[simp] theorem State.answer_inputs (s : State) (v : Word) : (s.answer v).inputs = s.inputs := rfl

@[simp] theorem State.done_lct (s : State) : (s.done).lct = s.lct := rfl
@[simp] theorem State.done_cas (s : State) : (s.done).cas = s.cas := rfl
@[simp] theorem State.done_out (s : State) : (s.done).out = .nothing := rfl
@[simp] theorem State.done_draws (s : State) : (s.done).draws = s.draws := rfl
@[simp] theorem State.done_inputs (s : State) : (s.done).inputs = s.inputs := rfl

@[simp] theorem State.drive_lct (s : State) (so : Bool) : (s.drive so).lct = s.lct := rfl
@[simp] theorem State.drive_cas (s : State) (so : Bool) : (s.drive so).cas = s.cas := rfl
@[simp] theorem State.drive_out (s : State) (so : Bool) : (s.drive so).out = .serialOut so := rfl
@[simp] theorem State.drive_draws (s : State) (so : Bool) : (s.drive so).draws = s.draws := rfl
@[simp] theorem State.drive_inputs (s : State) (so : Bool) : (s.drive so).inputs = s.inputs := rfl

@[simp] theorem powerOnReset_lct (s : State) : (powerOnReset s).lct = Lct.reset := rfl
@[simp] theorem powerOnReset_cas (s : State) : (powerOnReset s).cas = Cas.reset := rfl
@[simp] theorem powerOnReset_out (s : State) : (powerOnReset s).out = .nothing := rfl
@[simp] theorem powerOnReset_draws (s : State) : (powerOnReset s).draws = s.draws := rfl
@[simp] theorem powerOnReset_inputs (s : State) : (powerOnReset s).inputs = s.inputs := rfl

@[simp] theorem Lct.clearFraming_en (l : Lct) : l.clearFraming.en = l.en := rfl
@[simp] theorem Lct.clearFraming_w32 (l : Lct) : l.clearFraming.w32 = l.w32 := rfl
@[simp] theorem Lct.clearFraming_ie (l : Lct) : l.clearFraming.ie = l.ie := rfl
@[simp] theorem Lct.clearFraming_rxv (l : Lct) : l.clearFraming.rxv = l.rxv := rfl
@[simp] theorem Lct.clearFraming_txp (l : Lct) : l.clearFraming.txp = l.txp := rfl
@[simp] theorem Lct.clearFraming_bitcnt (l : Lct) : l.clearFraming.bitcnt = 0 := rfl
@[simp] theorem Lct.clearFraming_rxsr (l : Lct) : l.clearFraming.rxsr = 0 := rfl
@[simp] theorem Lct.clearFraming_txsr (l : Lct) : l.clearFraming.txsr = 0 := rfl
@[simp] theorem Lct.clearFraming_rxbuf (l : Lct) : l.clearFraming.rxbuf = l.rxbuf := rfl
@[simp] theorem Lct.clearFraming_txbuf (l : Lct) : l.clearFraming.txbuf = l.txbuf := rfl

@[simp] theorem Lct.clearBuffers_en (l : Lct) : l.clearBuffers.en = l.en := rfl
@[simp] theorem Lct.clearBuffers_w32 (l : Lct) : l.clearBuffers.w32 = l.w32 := rfl
@[simp] theorem Lct.clearBuffers_ie (l : Lct) : l.clearBuffers.ie = l.ie := rfl
@[simp] theorem Lct.clearBuffers_rxv (l : Lct) : l.clearBuffers.rxv = false := rfl
@[simp] theorem Lct.clearBuffers_txp (l : Lct) : l.clearBuffers.txp = false := rfl
@[simp] theorem Lct.clearBuffers_bitcnt (l : Lct) : l.clearBuffers.bitcnt = l.bitcnt := rfl
@[simp] theorem Lct.clearBuffers_rxsr (l : Lct) : l.clearBuffers.rxsr = l.rxsr := rfl
@[simp] theorem Lct.clearBuffers_txsr (l : Lct) : l.clearBuffers.txsr = l.txsr := rfl
@[simp] theorem Lct.clearBuffers_rxbuf (l : Lct) : l.clearBuffers.rxbuf = 0 := rfl
@[simp] theorem Lct.clearBuffers_txbuf (l : Lct) : l.clearBuffers.txbuf = 0 := rfl

@[simp] theorem State.irq_eq (s : State) : s.irq = (s.lct.ie && s.lct.rxv) := rfl

@[simp] theorem State.readResult_answer (s : State) (v : Word) : (s.answer v).readResult = v := rfl

@[simp] theorem State.readResult_done (s : State) : s.done.readResult = 0 := rfl

end Sys2Proof.Machine
end

