-- ==== Sys2Proof/Laws/Operands.lean ====
section
/-! SUPPORT. Masks, alignment and big-endian values bit by bit. -/

namespace Sys2Proof.Machine

@[simp] theorem mask_8 : mask 8 = 0xFF := rfl

@[simp] theorem mask_32 : mask 32 = 0xFFFFFFFF := rfl

/-- Bit `i` of a mask: set below `n`. -/
theorem getLsbD_mask (n i : Nat) (hn : n ≤ 32) : (mask n).getLsbD i = decide (i < n) := by
  rw [mask, BitVec.getLsbD_ofNat, Nat.testBit_two_pow_sub_one]
  by_cases h : i < n
  · simp [h, show i < 32 by omega]
  · simp [h]

/-- The width is 8 or 32 (R7). -/
theorem Lct.width_cases (l : Lct) : l.w32 = false ∧ l.width = 8 ∨ l.w32 = true ∧ l.width = 32 := by
  unfold Lct.width
  cases l.w32 <;> simp

theorem Lct.width_le (l : Lct) : l.width ≤ 32 := by
  rcases l.width_cases with ⟨_, h⟩ | ⟨_, h⟩ <;> omega

theorem Lct.width_pos (l : Lct) : 8 ≤ l.width := by
  rcases l.width_cases with ⟨_, h⟩ | ⟨_, h⟩ <;> omega

/-- The width depends on W32 alone. -/
theorem Lct.width_congr {l m : Lct} (h : l.w32 = m.w32) : l.width = m.width := by
  unfold Lct.width; rw [h]

/-- Bit `i` of an aligned word (R106): bit `i - (32 - w)` of the word, 0 below. -/
theorem getLsbD_align (w : Nat) (v : Word) (i : Nat) (hw : w ≤ 32) :
    (align w v).getLsbD i = (decide (i < 32) && decide (32 - w ≤ i) && v.getLsbD (i - (32 - w))) := by
  rw [align, BitVec.getLsbD_shiftLeft, BitVec.getLsbD_and, getLsbD_mask _ _ hw]
  by_cases h1 : i < 32
  · by_cases h2 : 32 - w ≤ i
    · have h3 : i - (32 - w) < w := by omega
      simp [h1, h2, h3, show ¬ i < 32 - w by omega]
    · simp [h1, h2, show i < 32 - w by omega]
  · simp [h1]

@[simp] theorem zextBit_getLsbD (b : Bool) (i : Nat) : (zextBit b).getLsbD i = (b && decide (i = 0)) := by
  cases b <;> rcases i with _ | i <;> simp [zextBit]

@[simp] theorem toNat_zextByte (b : Byte) : (zextByte b).toNat = b.toNat := by
  unfold zextByte
  rw [BitVec.toNat_setWidth]
  exact Nat.mod_eq_of_lt (by omega)

/-- A big-endian value as a number (R78). -/
theorem toNat_bigEndian (hi lo : Byte) : (bigEndian hi lo).toNat = hi.toNat * 256 + lo.toNat := by
  unfold bigEndian
  have h1 := hi.isLt
  have h2 := lo.isLt
  rw [BitVec.toNat_add, BitVec.toNat_mul, toNat_zextByte, toNat_zextByte, show (256 : Half).toNat = 256 from rfl]
  omega

/-- A big-endian value takes apart into the bytes it was made of (R78). -/
@[simp] theorem highByte_bigEndian (hi lo : Byte) : highByte (bigEndian hi lo) = hi := by
  apply BitVec.eq_of_toNat_eq
  have h1 := hi.isLt
  have h2 := lo.isLt
  rw [highByte, BitVec.extractLsb'_toNat, toNat_bigEndian, Nat.shiftRight_eq_div_pow]
  omega

@[simp] theorem lowByte_bigEndian (hi lo : Byte) : lowByte (bigEndian hi lo) = lo := by
  apply BitVec.eq_of_toNat_eq
  have h2 := lo.isLt
  rw [lowByte, BitVec.extractLsb'_toNat, toNat_bigEndian, Nat.shiftRight_eq_div_pow]
  omega

/-- A 16-bit value is the big-endian value of its two bytes (R78). -/
@[simp] theorem bigEndian_highByte_lowByte (x : Half) : bigEndian (highByte x) (lowByte x) = x := by
  apply BitVec.eq_of_toNat_eq
  have h := x.isLt
  rw [toNat_bigEndian, highByte, lowByte, BitVec.extractLsb'_toNat, BitVec.extractLsb'_toNat,
    Nat.shiftRight_eq_div_pow, Nat.shiftRight_eq_div_pow]
  omega

/-- The accumulator after one more byte, as a number (R141). -/
theorem toNat_addByte (acc : Half) (b : Byte) : (addByte acc b).toNat = (acc.toNat + b.toNat) % 65536 := by
  unfold addByte
  rw [BitVec.toNat_add, toNat_zextByte]

@[simp] theorem byteField_setWidth (b : Byte) : byteField (b.setWidth 32) = b := by
  apply BitVec.eq_of_toNat_eq
  have h := b.isLt
  rw [byteField, BitVec.extractLsb'_toNat, BitVec.toNat_setWidth, Nat.shiftRight_eq_div_pow]
  omega

@[simp] theorem halfField_setWidth (x : Half) : halfField (x.setWidth 32) = x := by
  apply BitVec.eq_of_toNat_eq
  have h := x.isLt
  rw [halfField, BitVec.extractLsb'_toNat, BitVec.toNat_setWidth, Nat.shiftRight_eq_div_pow]
  omega

end Sys2Proof.Machine
end

