-- ==== Sys2Proof/Laws/Ops.lean ====
section
/-! SUPPORT. What the shared operations on byte arrays do, said once: a byte written reads back, every other byte
reads as before. -/

namespace Sys2Proof.Machine

@[simp] theorem readByte_writeByte {n : Nat} (a : Vector Byte n) (i j : Nat) (b : Byte) :
    readByte (writeByte a i b) j = if j = i ∧ j < n then b else readByte a j := by
  unfold readByte writeByte
  rw [Vector.getElem?_setIfInBounds]
  by_cases hij : i = j
  · subst hij
    by_cases h : i < n <;> simp [h]
  · simp [hij, Ne.symm hij]

theorem readByte_of_lt {n : Nat} (a : Vector Byte n) {i : Nat} (h : i < n) : readByte a i = a[i] := by
  simp [readByte, h]

/-- Two byte arrays that read the same everywhere are equal. -/
theorem eq_of_readByte {n : Nat} {a b : Vector Byte n} (h : ∀ i, i < n → readByte a i = readByte b i) : a = b := by
  ext1 i hi
  rw [← readByte_of_lt a hi, ← readByte_of_lt b hi]
  exact h i hi

/-- Everything `writeBytes` can do: inside the bytes stored the array reads what was stored, elsewhere as before. -/
theorem readByte_writeBytes {n : Nat} (a : Vector Byte n) (i : Nat) (bs : List Byte) (j : Nat) :
    readByte (writeBytes a i bs) j =
      if i ≤ j ∧ j < i + bs.length ∧ j < n then bs.getD (j - i) 0 else readByte a j := by
  induction bs generalizing a i with
  | nil =>
    have h : ¬(i ≤ j ∧ j < i + ([] : List Byte).length ∧ j < n) := by simp; omega
    rw [if_neg h, writeBytes]
  | cons b bs ih =>
    rw [writeBytes, ih, readByte_writeByte]
    by_cases hj : j = i
    · subst hj
      by_cases hn : j < n <;> simp [hn]
    · by_cases hlt : i + 1 ≤ j
      · have e : j - i = (j - (i + 1)) + 1 := by omega
        have h1 : (i + 1 ≤ j ∧ j < i + 1 + bs.length ∧ j < n) ↔ (i ≤ j ∧ j < i + (b :: bs).length ∧ j < n) := by
          simp; omega
        simp only [h1, e, List.getD_cons_succ, hj, false_and, if_false]
      · have h1 : ¬(i + 1 ≤ j ∧ j < i + 1 + bs.length ∧ j < n) := by omega
        have h2 : ¬(i ≤ j ∧ j < i + (b :: bs).length ∧ j < n) := by omega
        rw [if_neg h1, if_neg h2, if_neg (by tauto)]

@[simp] theorem length_readBytes {n : Nat} (a : Vector Byte n) (i m : Nat) : (readBytes a i m).length = m := by
  induction m generalizing i with
  | zero => rfl
  | succ m ih => simp [readBytes, ih]

/-- Everything `readBytes` gives: byte `k` of the result is byte `i + k` of the array. -/
theorem getD_readBytes {n : Nat} (a : Vector Byte n) (i m k : Nat) (h : k < m) :
    (readBytes a i m).getD k 0 = readByte a (i + k) := by
  induction m generalizing i k with
  | zero => omega
  | succ m ih =>
    cases k with
    | zero => simp [readBytes]
    | succ k =>
      rw [readBytes, List.getD_cons_succ, ih (i + 1) k (by omega)]
      congr 1; omega

/-- Byte `j` of a register's value, low byte first. -/
theorem getD_bytesOfWord (v : Word) (j : Nat) (h : j < 4) : (bytesOfWord v).getD j 0 = v.extractLsb' (8 * j) 8 := by
  rcases j with _ | _ | _ | _ | j <;> first | rfl | omega

@[simp] theorem length_bytesOfWord (v : Word) : (bytesOfWord v).length = 4 := rfl

/-- Everything `writeRegister` can do (R76): byte `4k + j` becomes `v[8j+7:8j]`, every other byte reads as before. -/
theorem readByte_writeRegister {n : Nat} (a : Vector Byte n) (k : Nat) (v : Word) (i : Nat) :
    readByte (writeRegister a k v) i =
      if 4 * k ≤ i ∧ i < 4 * k + 4 ∧ i < n then v.extractLsb' (8 * (i - 4 * k)) 8 else readByte a i := by
  rw [writeRegister, readByte_writeBytes, length_bytesOfWord]
  by_cases h : 4 * k ≤ i ∧ i < 4 * k + 4 ∧ i < n
  · rw [if_pos h, if_pos h, getD_bytesOfWord v _ (by omega)]
  · rw [if_neg h, if_neg h]

@[simp] theorem wordOfBytes_bytesOfWord (v : Word) :
    wordOfBytes (v.extractLsb' 0 8) (v.extractLsb' 8 8) (v.extractLsb' 16 8) (v.extractLsb' 24 8) = v := by
  unfold wordOfBytes
  ext i hi
  simp only [BitVec.getElem_append, BitVec.getElem_extractLsb']
  split
  · simp [BitVec.getLsbD_eq_getElem, hi]
  · split
    · rw [show 8 + (i - 8) = i by omega]; exact BitVec.getLsbD_eq_getElem hi
    · split
      · rw [show 16 + (i - 8 - 8) = i by omega]; exact BitVec.getLsbD_eq_getElem hi
      · rw [show 24 + (i - 8 - 8 - 8) = i by omega]; exact BitVec.getLsbD_eq_getElem hi

/-- The bytes of a value made of four bytes are those bytes. -/
@[simp] theorem bytesOfWord_wordOfBytes (b0 b1 b2 b3 : Byte) :
    bytesOfWord (wordOfBytes b0 b1 b2 b3) = [b0, b1, b2, b3] := by
  unfold bytesOfWord wordOfBytes
  simp only [List.cons.injEq, and_true]
  refine ⟨?_, ?_, ?_, ?_⟩ <;>
  · ext i hi
    simp only [BitVec.getElem_extractLsb', BitVec.getLsbD_append]
    split
    · first
      | (simp only [Nat.zero_add]; exact BitVec.getLsbD_eq_getElem hi)
      | omega
    · first
      | omega
      | (split
         · first
           | omega
           | (rw [show 8 + i - 8 = i by omega]; exact BitVec.getLsbD_eq_getElem hi)
         · first
           | omega
           | (split
              · first
                | omega
                | (rw [show 16 + i - 8 - 8 = i by omega]; exact BitVec.getLsbD_eq_getElem hi)
              · first
                | omega
                | (rw [show 24 + i - 8 - 8 - 8 = i by omega]; exact BitVec.getLsbD_eq_getElem hi)))

end Sys2Proof.Machine
end

