-- ==== Sys2Proof/Laws/Address.lean ====
section
/-! SUPPORT. What the two strobes of the serializer do to each byte (R160, R161), said once. -/

namespace Sys2Proof.Machine

/-- Byte `j` of register `k` of a byte array (R32, R35). -/
theorem extractLsb'_readRegister {n : Nat} (a : Vector Byte n) (k j : Nat) (hj : j < 4) :
    (readRegister a k).extractLsb' (8 * j) 8 = readByte a (4 * k + j) := by
  rw [← getD_bytesOfWord _ j hj, readRegister, bytesOfWord_wordOfBytes]
  rcases j with _ | _ | _ | _ | j <;> first | rfl | omega

/-- The bytes of register `k` of a byte array, in order (R32, R35). -/
theorem bytesOfWord_readRegister {n : Nat} (a : Vector Byte n) (k : Nat) :
    bytesOfWord (readRegister a k) = readBytes a (4 * k) 4 := by
  rw [readRegister, bytesOfWord_wordOfBytes]; rfl

/-- Reading on from where one read ended. -/
theorem readBytes_add {n : Nat} (a : Vector Byte n) (i m k : Nat) :
    readBytes a i (m + k) = readBytes a i m ++ readBytes a (i + m) k := by
  induction m generalizing i with
  | zero => simp [readBytes]
  | succ m ih =>
    rw [show m + 1 + k = m + k + 1 by omega, readBytes, readBytes, ih, List.cons_append,
      show i + 1 + m = i + (m + 1) by omega]

/-- Byte `k` of a list of bytes read from an array. -/
theorem getElem?_readBytes {n : Nat} (a : Vector Byte n) (i m k : Nat) (h : k < m) :
    (readBytes a i m)[k]? = some (readByte a (i + k)) := by
  have hl : k < (readBytes a i m).length := by rw [length_readBytes]; exact h
  have := getD_readBytes a i m k h
  rw [List.getD_eq_getElem _ _ hl] at this
  rw [List.getElem?_eq_getElem hl, this]

/-- Every byte of `BUF` after an encode of a record with a port (R160). -/
theorem readByte_bufWith (c : Cas) (tag : Byte) (n k : Nat) (hk : k < 20) :
    readByte (c.bufWith tag n) k =
      if k = 0 then tag else if k = 1 then highByte c.port else if k = 2 then lowByte c.port
      else if k < 3 + n then readByte c.host (k - 3) else readByte c.buf k := by
  rw [Cas.bufWith, readByte_writeBytes]
  simp only [List.length_cons, length_readBytes]
  rcases k with _ | _ | _ | k
  · simp
  · simp
  · simp
  · by_cases h : k < n
    · rw [if_pos (by omega), if_neg (by omega), if_neg (by omega), if_neg (by omega), if_pos (by omega)]
      simpa using getD_readBytes c.host 0 n k h
    · rw [if_neg (by omega), if_neg (by omega), if_neg (by omega), if_neg (by omega), if_neg (by omega)]

/-- Every byte of `HOST` after a decode of a record with `n` host bytes (R161). -/
theorem readByte_hostFromBuf (c : Cas) (n k : Nat) (hk : k < 16) :
    readByte (c.hostFromBuf n) k = if k < n then readByte c.buf (k + 3) else readByte c.host k := by
  rw [Cas.hostFromBuf, readByte_writeBytes, length_readBytes]
  by_cases h : k < n
  · rw [if_pos (by omega), if_pos h, Nat.sub_zero, getD_readBytes _ _ _ _ h, Nat.add_comm]
  · rw [if_neg (by omega), if_neg h]

/-- AD_ENCODE of a None record (R160). -/
theorem Cas.encodeRecord_none {t : Config.Tags} {c : Cas} (h : c.type = 0) :
    c.encodeRecord t = { c with buf := writeBytes c.buf 0 [t.none], len := 1 } := by
  simp [Cas.encodeRecord, h]

/-- AD_ENCODE of an IPv4 record (R160). -/
theorem Cas.encodeRecord_ipv4 {t : Config.Tags} {c : Cas} (h : c.type = 1) :
    c.encodeRecord t = { c with buf := c.bufWith t.ipv4 4, len := 7 } := by
  simp [Cas.encodeRecord, h]

/-- AD_ENCODE of an IPv6 record (R160). -/
theorem Cas.encodeRecord_ipv6 {t : Config.Tags} {c : Cas} (h : c.type = 2) :
    c.encodeRecord t = { c with buf := c.bufWith t.ipv6 16, len := 19 } := by
  simp [Cas.encodeRecord, h]

/-- AD_ENCODE of no record (R160). -/
theorem Cas.encodeRecord_noVariant {t : Config.Tags} {c : Cas} (h : c.type = 3) :
    c.encodeRecord t = { c with len := 0 } := by
  simp [Cas.encodeRecord, h]

/-- TYPE is one of four (R30). -/
theorem Cas.type_cases (c : Cas) : c.type = 0 ∨ c.type = 1 ∨ c.type = 2 ∨ c.type = 3 := by
  generalize c.type = x
  revert x
  decide

/-- Distinct tags, as inequalities (R163). -/
theorem tags_ne {t : Config.Tags} (h : t.distinct = true) :
    t.none ≠ t.ipv4 ∧ t.none ≠ t.ipv6 ∧ t.ipv4 ≠ t.ipv6 := by
  simpa [Config.Tags.distinct, and_assoc] using h

/-- AD_DECODE of a None tag (R161). -/
theorem Cas.decodeRecord_none {t : Config.Tags} {c : Cas} (h : 1 ≤ c.len.toNat) (ht : readByte c.buf 0 = t.none) :
    c.decodeRecord t = { c with type := 0, result := 1 } := by
  simp [Cas.decodeRecord, ht, h]

/-- AD_DECODE of an IPv4 tag (R161). -/
theorem Cas.decodeRecord_ipv4 {t : Config.Tags} {c : Cas} (hd : t.distinct = true) (h : 7 ≤ c.len.toNat)
    (ht : readByte c.buf 0 = t.ipv4) :
    c.decodeRecord t = { c with type := 1, port := c.portFromBuf, host := c.hostFromBuf 4, result := 7 } := by
  simp [Cas.decodeRecord, ht, h, (tags_ne hd).1.symm]

/-- AD_DECODE of an IPv6 tag (R161). -/
theorem Cas.decodeRecord_ipv6 {t : Config.Tags} {c : Cas} (hd : t.distinct = true) (h : 19 ≤ c.len.toNat)
    (ht : readByte c.buf 0 = t.ipv6) :
    c.decodeRecord t = { c with type := 2, port := c.portFromBuf, host := c.hostFromBuf 16, result := 19 } := by
  simp [Cas.decodeRecord, ht, h, (tags_ne hd).2.1.symm, (tags_ne hd).2.2.symm]

/-- `decode_address` of an IPv4 tag with enough bytes (R165). -/
theorem decodeAddress_ipv4 {t : Config.Tags} {b : List Byte} (hd : t.distinct = true) (h : 6 ≤ b.length) :
    decodeAddress t (t.ipv4 :: b) = (some (.ipv4 (portOf (t.ipv4 :: b)) (hostOf (t.ipv4 :: b) 4)), 7) := by
  have hl : ¬(t.ipv4 :: b).length < 7 := by simp; omega
  unfold decodeAddress
  simp only [(tags_ne hd).1.symm, if_false, if_true, hl]

/-- `decode_address` of an IPv6 tag with enough bytes (R165). -/
theorem decodeAddress_ipv6 {t : Config.Tags} {b : List Byte} (hd : t.distinct = true) (h : 18 ≤ b.length) :
    decodeAddress t (t.ipv6 :: b) = (some (.ipv6 (portOf (t.ipv6 :: b)) (hostOf (t.ipv6 :: b) 16)), 19) := by
  have hl : ¬(t.ipv6 :: b).length < 19 := by simp; omega
  unfold decodeAddress
  simp only [(tags_ne hd).2.1.symm, (tags_ne hd).2.2.symm, if_false, if_true, hl]

end Sys2Proof.Machine
end

