-- ==== Sys2Proof/Laws/Exec.lean ====
section
/-! SUPPORT. The next state of every operation over the shared operations, one lemma per operation: proofs rewrite
with these and with the field lemmas of Laws/State, and unfold no meaning. -/

namespace Sys2Proof.Machine

theorem exec_rdLctCtrl (s : State) : exec .rdLctCtrl s = .next (s.answer (ctrlWord s.lct)) := rfl
theorem exec_rdLctStatus (s : State) : exec .rdLctStatus s = .next (s.answer (statusWord s.lct s.irq)) := rfl
theorem exec_rdLctRxdata (s : State) :
    exec .rdLctRxdata s = .next ((s.setLct { s.lct with rxv := false }).answer (rxdataWord s.lct)) := rfl
theorem exec_rdLctTxdata (s : State) : exec .rdLctTxdata s = .next (s.answer 0) := rfl
theorem exec_rdLctReset (s : State) : exec .rdLctReset s = .next (s.answer 0) := rfl
theorem exec_rdLctClear (s : State) : exec .rdLctClear s = .next (s.answer 0) := rfl
theorem exec_rdRsvd18 (s : State) : exec .rdRsvd18 s = .next (s.answer 0) := rfl
theorem exec_rdRsvd1C (s : State) : exec .rdRsvd1C s = .next (s.answer 0) := rfl
theorem exec_rdCkClear (s : State) : exec .rdCkClear s = .next (s.answer 0) := rfl
theorem exec_rdCkData (s : State) : exec .rdCkData s = .next (s.answer 0) := rfl
theorem exec_rdCkSum (s : State) : exec .rdCkSum s = .next (s.answer (s.cas.acc.setWidth 32)) := rfl
theorem exec_rdCkExpect (s : State) : exec .rdCkExpect s = .next (s.answer (s.cas.expect.setWidth 32)) := rfl
theorem exec_rdCkStatus (s : State) : exec .rdCkStatus s = .next (s.answer (zextBit s.cas.matches)) := rfl
theorem exec_rdRsvd34 (s : State) : exec .rdRsvd34 s = .next (s.answer 0) := rfl
theorem exec_rdRsvd38 (s : State) : exec .rdRsvd38 s = .next (s.answer 0) := rfl
theorem exec_rdRsvd3C (s : State) : exec .rdRsvd3C s = .next (s.answer 0) := rfl
theorem exec_rdAdType (s : State) : exec .rdAdType s = .next (s.answer (s.cas.type.setWidth 32)) := rfl
theorem exec_rdAdPort (s : State) : exec .rdAdPort s = .next (s.answer (s.cas.port.setWidth 32)) := rfl
theorem exec_rdAdHost0 (s : State) : exec .rdAdHost0 s = .next (s.answer (readRegister s.cas.host 0)) := rfl
theorem exec_rdAdHost1 (s : State) : exec .rdAdHost1 s = .next (s.answer (readRegister s.cas.host 1)) := rfl
theorem exec_rdAdHost2 (s : State) : exec .rdAdHost2 s = .next (s.answer (readRegister s.cas.host 2)) := rfl
theorem exec_rdAdHost3 (s : State) : exec .rdAdHost3 s = .next (s.answer (readRegister s.cas.host 3)) := rfl
theorem exec_rdAdLen (s : State) : exec .rdAdLen s = .next (s.answer (s.cas.len.setWidth 32)) := rfl
theorem exec_rdAdResult (s : State) : exec .rdAdResult s = .next (s.answer (s.cas.result.setWidth 32)) := rfl
theorem exec_rdAdBuf0 (s : State) : exec .rdAdBuf0 s = .next (s.answer (readRegister s.cas.buf 0)) := rfl
theorem exec_rdAdBuf1 (s : State) : exec .rdAdBuf1 s = .next (s.answer (readRegister s.cas.buf 1)) := rfl
theorem exec_rdAdBuf2 (s : State) : exec .rdAdBuf2 s = .next (s.answer (readRegister s.cas.buf 2)) := rfl
theorem exec_rdAdBuf3 (s : State) : exec .rdAdBuf3 s = .next (s.answer (readRegister s.cas.buf 3)) := rfl
theorem exec_rdAdBuf4 (s : State) : exec .rdAdBuf4 s = .next (s.answer (readRegister s.cas.buf 4)) := rfl
theorem exec_rdAdEncode (s : State) : exec .rdAdEncode s = .next (s.answer 0) := rfl
theorem exec_rdAdDecode (s : State) : exec .rdAdDecode s = .next (s.answer 0) := rfl
theorem exec_rdRsvd7C (s : State) : exec .rdRsvd7C s = .next (s.answer 0) := rfl
theorem exec_wrLctCtrl (v : Word) (s : State) :
    exec (.wrLctCtrl v) s = .next ((s.setLct (s.lct.writeCtrl v)).done) := rfl
theorem exec_wrLctStatus (v : Word) (s : State) : exec (.wrLctStatus v) s = .next s.done := rfl
theorem exec_wrLctRxdata (v : Word) (s : State) : exec (.wrLctRxdata v) s = .next s.done := rfl
theorem exec_wrLctTxdata (v : Word) (s : State) :
    exec (.wrLctTxdata v) s = .next ((s.setLct (s.lct.sendWord v)).done) := rfl
theorem exec_wrLctReset (v : Word) (s : State) :
    exec (.wrLctReset v) s = .next ((s.setLct s.lct.transportReset).done) := rfl
theorem exec_wrLctClear (v : Word) (s : State) :
    exec (.wrLctClear v) s = .next ((s.setLct s.lct.clearBuffers).done) := rfl
theorem exec_wrRsvd18 (v : Word) (s : State) : exec (.wrRsvd18 v) s = .next s.done := rfl
theorem exec_wrRsvd1C (v : Word) (s : State) : exec (.wrRsvd1C v) s = .next s.done := rfl
theorem exec_wrCkClear (v : Word) (s : State) :
    exec (.wrCkClear v) s = .next ((s.setCas { s.cas with acc := 0 }).done) := rfl
theorem exec_wrCkData (v : Word) (s : State) :
    exec (.wrCkData v) s = .next ((s.setCas { s.cas with acc := addByte s.cas.acc (byteField v) }).done) := rfl
theorem exec_wrCkSum (v : Word) (s : State) : exec (.wrCkSum v) s = .next s.done := rfl
theorem exec_wrCkExpect (v : Word) (s : State) :
    exec (.wrCkExpect v) s = .next ((s.setCas { s.cas with expect := halfField v }).done) := rfl
theorem exec_wrCkStatus (v : Word) (s : State) : exec (.wrCkStatus v) s = .next s.done := rfl
theorem exec_wrRsvd34 (v : Word) (s : State) : exec (.wrRsvd34 v) s = .next s.done := rfl
theorem exec_wrRsvd38 (v : Word) (s : State) : exec (.wrRsvd38 v) s = .next s.done := rfl
theorem exec_wrRsvd3C (v : Word) (s : State) : exec (.wrRsvd3C v) s = .next s.done := rfl
theorem exec_wrAdType (v : Word) (s : State) :
    exec (.wrAdType v) s = .next ((s.setCas { s.cas with type := typeField v }).done) := rfl
theorem exec_wrAdPort (v : Word) (s : State) :
    exec (.wrAdPort v) s = .next ((s.setCas { s.cas with port := halfField v }).done) := rfl
theorem exec_wrAdHost0 (v : Word) (s : State) :
    exec (.wrAdHost0 v) s = .next ((s.setCas { s.cas with host := writeRegister s.cas.host 0 v }).done) := rfl
theorem exec_wrAdHost1 (v : Word) (s : State) :
    exec (.wrAdHost1 v) s = .next ((s.setCas { s.cas with host := writeRegister s.cas.host 1 v }).done) := rfl
theorem exec_wrAdHost2 (v : Word) (s : State) :
    exec (.wrAdHost2 v) s = .next ((s.setCas { s.cas with host := writeRegister s.cas.host 2 v }).done) := rfl
theorem exec_wrAdHost3 (v : Word) (s : State) :
    exec (.wrAdHost3 v) s = .next ((s.setCas { s.cas with host := writeRegister s.cas.host 3 v }).done) := rfl
theorem exec_wrAdLen (v : Word) (s : State) :
    exec (.wrAdLen v) s = .next ((s.setCas { s.cas with len := byteField v }).done) := rfl
theorem exec_wrAdResult (v : Word) (s : State) : exec (.wrAdResult v) s = .next s.done := rfl
theorem exec_wrAdBuf0 (v : Word) (s : State) :
    exec (.wrAdBuf0 v) s = .next ((s.setCas { s.cas with buf := writeRegister s.cas.buf 0 v }).done) := rfl
theorem exec_wrAdBuf1 (v : Word) (s : State) :
    exec (.wrAdBuf1 v) s = .next ((s.setCas { s.cas with buf := writeRegister s.cas.buf 1 v }).done) := rfl
theorem exec_wrAdBuf2 (v : Word) (s : State) :
    exec (.wrAdBuf2 v) s = .next ((s.setCas { s.cas with buf := writeRegister s.cas.buf 2 v }).done) := rfl
theorem exec_wrAdBuf3 (v : Word) (s : State) :
    exec (.wrAdBuf3 v) s = .next ((s.setCas { s.cas with buf := writeRegister s.cas.buf 3 v }).done) := rfl
theorem exec_wrAdBuf4 (v : Word) (s : State) :
    exec (.wrAdBuf4 v) s = .next ((s.setCas { s.cas with buf := writeRegister s.cas.buf 4 v }).done) := rfl
theorem exec_wrAdEncode (v : Word) (s : State) :
    exec (.wrAdEncode v) s = .next ((s.setCas (s.cas.encodeRecord Config.tags)).done) := rfl
theorem exec_wrAdDecode (v : Word) (s : State) :
    exec (.wrAdDecode v) s = .next ((s.setCas (s.cas.decodeRecord Config.tags)).done) := rfl
theorem exec_wrRsvd7C (v : Word) (s : State) : exec (.wrRsvd7C v) s = .next s.done := rfl
theorem exec_pulse (si : Bool) (s : State) :
    exec (.pulse si) s = .next (if s.lct.en then s.pulseEnabled si else s.pulseDisabled) := rfl

end Sys2Proof.Machine
end

