-- ==== Sys2Proof/Laws/Access.lean ====
section
/-! SUPPORT. How the host's procedures run: an access that has a next state is one step of the sequence. -/

namespace Sys2Proof.Machine

/-- An access with a next state answers that state's read result. -/
theorem access_of_exec {i : Instr} {s t : State} (h : exec i s = .next t) : access i s = some (t.readResult, t) := by
  rw [access, h]

/-- An operation with a next state answers that state's output. -/
theorem runOp_of_exec {i : Instr} {s t : State} (h : exec i s = .next t) : runOp i s = some (t.out, t) := by
  rw [runOp, h]

/-- The first access of a sequence. -/
theorem accesses_cons {i : Instr} {is : List Instr} {s t : State} (h : exec i s = .next t) :
    accesses (i :: is) s = accesses is t := by
  rw [accesses, access_of_exec h]

/-- The first operation of a sequence. -/
theorem runOps_cons {i : Instr} {is : List Instr} {s t u : State} {os : List Output} (h : exec i s = .next t)
    (h' : runOps is t = some (os, u)) : runOps (i :: is) s = some (t.out :: os, u) := by
  rw [runOps, runOp_of_exec h]
  simp [h']

/-- The first read of a sequence of reads. -/
theorem readAllBytes_cons {i : Instr} {is : List Instr} {s t : State} (h : exec i s = .next t) :
    readAllBytes (i :: is) s =
      (readAllBytes is t).bind fun p => some (bytesOfWord t.readResult ++ p.1, p.2) := by
  rw [readAllBytes, access_of_exec h]
  rfl

/-- The four bytes a list puts in register `k` (R32, R35). -/
theorem bytesOfWord_listRegister (b : List Byte) (k : Nat) :
    bytesOfWord (listRegister b k) =
      [b.getD (4 * k) 0, b.getD (4 * k + 1) 0, b.getD (4 * k + 2) 0, b.getD (4 * k + 3) 0] := by
  rw [listRegister, bytesOfWord_wordOfBytes]

/-- Which side takes CK_EXPECT out of big-endian order shows in no state (R57 beside R143). -/
theorem hostLoadTrailer_eq (hi lo : Byte) (s : State) : hostLoadTrailer hi lo s = blockLoadTrailer hi lo s := by
  rw [hostLoadTrailer, accesses_cons (exec_wrCkExpect _ s), accesses, blockLoadTrailer, Cas.takeTrailer,
    halfField_setWidth]

end Sys2Proof.Machine
end

