-- ==== Sys2Proof/Laws/PerInstr.lean ====
section
/-! SUPPORT. Statements about every operation as syntax, one lemma per constructor. -/

namespace Sys2Proof.Laws.EncodingShape

/-- The shape of an operation's encoding (R70, R71): a read is a Format A packet of two bytes with DIR = 0, a write a
Format A packet of six with DIR = 1, both with OFF a multiple of 4 up to 0x7C; a pulse is a Format P packet of one
byte. -/
def Statement (i : Instr) : Prop :=
  match (encode i).format, (encode i).bytes with
  | .a, [off, dir] => dir = 0 ∧ off.toNat % 4 = 0 ∧ off.toNat ≤ 0x7C
  | .a, [off, dir, _, _, _, _] => dir = 1 ∧ off.toNat % 4 = 0 ∧ off.toNat ≤ 0x7C
  | .p, [_] => ∃ si, i = .pulse si
  | _, _ => False

theorem rdLctCtrl : Statement .rdLctCtrl := ⟨rfl, by decide, by decide⟩
theorem rdLctStatus : Statement .rdLctStatus := ⟨rfl, by decide, by decide⟩
theorem rdLctRxdata : Statement .rdLctRxdata := ⟨rfl, by decide, by decide⟩
theorem rdLctTxdata : Statement .rdLctTxdata := ⟨rfl, by decide, by decide⟩
theorem rdLctReset : Statement .rdLctReset := ⟨rfl, by decide, by decide⟩
theorem rdLctClear : Statement .rdLctClear := ⟨rfl, by decide, by decide⟩
theorem rdRsvd18 : Statement .rdRsvd18 := ⟨rfl, by decide, by decide⟩
theorem rdRsvd1C : Statement .rdRsvd1C := ⟨rfl, by decide, by decide⟩
theorem rdCkClear : Statement .rdCkClear := ⟨rfl, by decide, by decide⟩
theorem rdCkData : Statement .rdCkData := ⟨rfl, by decide, by decide⟩
theorem rdCkSum : Statement .rdCkSum := ⟨rfl, by decide, by decide⟩
theorem rdCkExpect : Statement .rdCkExpect := ⟨rfl, by decide, by decide⟩
theorem rdCkStatus : Statement .rdCkStatus := ⟨rfl, by decide, by decide⟩
theorem rdRsvd34 : Statement .rdRsvd34 := ⟨rfl, by decide, by decide⟩
theorem rdRsvd38 : Statement .rdRsvd38 := ⟨rfl, by decide, by decide⟩
theorem rdRsvd3C : Statement .rdRsvd3C := ⟨rfl, by decide, by decide⟩
theorem rdAdType : Statement .rdAdType := ⟨rfl, by decide, by decide⟩
theorem rdAdPort : Statement .rdAdPort := ⟨rfl, by decide, by decide⟩
theorem rdAdHost0 : Statement .rdAdHost0 := ⟨rfl, by decide, by decide⟩
theorem rdAdHost1 : Statement .rdAdHost1 := ⟨rfl, by decide, by decide⟩
theorem rdAdHost2 : Statement .rdAdHost2 := ⟨rfl, by decide, by decide⟩
theorem rdAdHost3 : Statement .rdAdHost3 := ⟨rfl, by decide, by decide⟩
theorem rdAdLen : Statement .rdAdLen := ⟨rfl, by decide, by decide⟩
theorem rdAdResult : Statement .rdAdResult := ⟨rfl, by decide, by decide⟩
theorem rdAdBuf0 : Statement .rdAdBuf0 := ⟨rfl, by decide, by decide⟩
theorem rdAdBuf1 : Statement .rdAdBuf1 := ⟨rfl, by decide, by decide⟩
theorem rdAdBuf2 : Statement .rdAdBuf2 := ⟨rfl, by decide, by decide⟩
theorem rdAdBuf3 : Statement .rdAdBuf3 := ⟨rfl, by decide, by decide⟩
theorem rdAdBuf4 : Statement .rdAdBuf4 := ⟨rfl, by decide, by decide⟩
theorem rdAdEncode : Statement .rdAdEncode := ⟨rfl, by decide, by decide⟩
theorem rdAdDecode : Statement .rdAdDecode := ⟨rfl, by decide, by decide⟩
theorem rdRsvd7C : Statement .rdRsvd7C := ⟨rfl, by decide, by decide⟩
theorem wrLctCtrl (v : Word) : Statement (.wrLctCtrl v) := ⟨rfl, by decide, by decide⟩
theorem wrLctStatus (v : Word) : Statement (.wrLctStatus v) := ⟨rfl, by decide, by decide⟩
theorem wrLctRxdata (v : Word) : Statement (.wrLctRxdata v) := ⟨rfl, by decide, by decide⟩
theorem wrLctTxdata (v : Word) : Statement (.wrLctTxdata v) := ⟨rfl, by decide, by decide⟩
theorem wrLctReset (v : Word) : Statement (.wrLctReset v) := ⟨rfl, by decide, by decide⟩
theorem wrLctClear (v : Word) : Statement (.wrLctClear v) := ⟨rfl, by decide, by decide⟩
theorem wrRsvd18 (v : Word) : Statement (.wrRsvd18 v) := ⟨rfl, by decide, by decide⟩
theorem wrRsvd1C (v : Word) : Statement (.wrRsvd1C v) := ⟨rfl, by decide, by decide⟩
theorem wrCkClear (v : Word) : Statement (.wrCkClear v) := ⟨rfl, by decide, by decide⟩
theorem wrCkData (v : Word) : Statement (.wrCkData v) := ⟨rfl, by decide, by decide⟩
theorem wrCkSum (v : Word) : Statement (.wrCkSum v) := ⟨rfl, by decide, by decide⟩
theorem wrCkExpect (v : Word) : Statement (.wrCkExpect v) := ⟨rfl, by decide, by decide⟩
theorem wrCkStatus (v : Word) : Statement (.wrCkStatus v) := ⟨rfl, by decide, by decide⟩
theorem wrRsvd34 (v : Word) : Statement (.wrRsvd34 v) := ⟨rfl, by decide, by decide⟩
theorem wrRsvd38 (v : Word) : Statement (.wrRsvd38 v) := ⟨rfl, by decide, by decide⟩
theorem wrRsvd3C (v : Word) : Statement (.wrRsvd3C v) := ⟨rfl, by decide, by decide⟩
theorem wrAdType (v : Word) : Statement (.wrAdType v) := ⟨rfl, by decide, by decide⟩
theorem wrAdPort (v : Word) : Statement (.wrAdPort v) := ⟨rfl, by decide, by decide⟩
theorem wrAdHost0 (v : Word) : Statement (.wrAdHost0 v) := ⟨rfl, by decide, by decide⟩
theorem wrAdHost1 (v : Word) : Statement (.wrAdHost1 v) := ⟨rfl, by decide, by decide⟩
theorem wrAdHost2 (v : Word) : Statement (.wrAdHost2 v) := ⟨rfl, by decide, by decide⟩
theorem wrAdHost3 (v : Word) : Statement (.wrAdHost3 v) := ⟨rfl, by decide, by decide⟩
theorem wrAdLen (v : Word) : Statement (.wrAdLen v) := ⟨rfl, by decide, by decide⟩
theorem wrAdResult (v : Word) : Statement (.wrAdResult v) := ⟨rfl, by decide, by decide⟩
theorem wrAdBuf0 (v : Word) : Statement (.wrAdBuf0 v) := ⟨rfl, by decide, by decide⟩
theorem wrAdBuf1 (v : Word) : Statement (.wrAdBuf1 v) := ⟨rfl, by decide, by decide⟩
theorem wrAdBuf2 (v : Word) : Statement (.wrAdBuf2 v) := ⟨rfl, by decide, by decide⟩
theorem wrAdBuf3 (v : Word) : Statement (.wrAdBuf3 v) := ⟨rfl, by decide, by decide⟩
theorem wrAdBuf4 (v : Word) : Statement (.wrAdBuf4 v) := ⟨rfl, by decide, by decide⟩
theorem wrAdEncode (v : Word) : Statement (.wrAdEncode v) := ⟨rfl, by decide, by decide⟩
theorem wrAdDecode (v : Word) : Statement (.wrAdDecode v) := ⟨rfl, by decide, by decide⟩
theorem wrRsvd7C (v : Word) : Statement (.wrRsvd7C v) := ⟨rfl, by decide, by decide⟩
theorem pulse (si : Bool) : Statement (.pulse si) := ⟨si, rfl⟩

end Sys2Proof.Laws.EncodingShape
end

