-- ==== Sys2Proof/Laws/Step.lean ====
section
/-! SUPPORT. What an operation and a step can do, said once: later proofs cite these instead of unfolding `exec`. -/

namespace Sys2Proof.Machine

/-- What an operation does to LCT: the only six that change it. -/
def lctAfter (i : Instr) (s : State) : Lct :=
  match i with
  | .rdLctRxdata => { s.lct with rxv := false }
  | .wrLctCtrl v => s.lct.writeCtrl v
  | .wrLctTxdata v => s.lct.sendWord v
  | .wrLctReset _ => s.lct.transportReset
  | .wrLctClear _ => s.lct.clearBuffers
  | .pulse si => if s.lct.en then s.lct.exchange (Config.idleTxWord s.draws) si else s.lct
  | _ => s.lct

/-- What an operation does to CAS: the only seventeen that change it. -/
def casAfter (i : Instr) (c : Cas) : Cas :=
  match i with
  | .wrCkClear _ => { c with acc := 0 }
  | .wrCkData v => { c with acc := addByte c.acc (byteField v) }
  | .wrCkExpect v => { c with expect := halfField v }
  | .wrAdType v => { c with type := typeField v }
  | .wrAdPort v => { c with port := halfField v }
  | .wrAdHost0 v => { c with host := writeRegister c.host 0 v }
  | .wrAdHost1 v => { c with host := writeRegister c.host 1 v }
  | .wrAdHost2 v => { c with host := writeRegister c.host 2 v }
  | .wrAdHost3 v => { c with host := writeRegister c.host 3 v }
  | .wrAdLen v => { c with len := byteField v }
  | .wrAdBuf0 v => { c with buf := writeRegister c.buf 0 v }
  | .wrAdBuf1 v => { c with buf := writeRegister c.buf 1 v }
  | .wrAdBuf2 v => { c with buf := writeRegister c.buf 2 v }
  | .wrAdBuf3 v => { c with buf := writeRegister c.buf 3 v }
  | .wrAdBuf4 v => { c with buf := writeRegister c.buf 4 v }
  | .wrAdEncode _ => c.encodeRecord Config.tags
  | .wrAdDecode _ => c.decodeRecord Config.tags
  | _ => c

/-- The draws counted after an operation: one more at a word that underruns and at a pulse while disabled. -/
def drawsAfter (i : Instr) (s : State) : Nat :=
  match i with
  | .pulse _ => if s.lct.en then (if s.lct.underruns then s.draws + 1 else s.draws) else s.draws + 1
  | _ => s.draws

/-- What an operation answers: a read its word, a pulse the bit on SO, a write nothing. -/
def outAfter (i : Instr) (s : State) : Output :=
  match i with
  | .rdLctCtrl => .readData (ctrlWord s.lct)
  | .rdLctStatus => .readData (statusWord s.lct s.irq)
  | .rdLctRxdata => .readData (rxdataWord s.lct)
  | .rdLctTxdata => .readData 0
  | .rdLctReset => .readData 0
  | .rdLctClear => .readData 0
  | .rdRsvd18 => .readData 0
  | .rdRsvd1C => .readData 0
  | .rdCkClear => .readData 0
  | .rdCkData => .readData 0
  | .rdCkSum => .readData (s.cas.acc.setWidth 32)
  | .rdCkExpect => .readData (s.cas.expect.setWidth 32)
  | .rdCkStatus => .readData (zextBit s.cas.matches)
  | .rdRsvd34 => .readData 0
  | .rdRsvd38 => .readData 0
  | .rdRsvd3C => .readData 0
  | .rdAdType => .readData (s.cas.type.setWidth 32)
  | .rdAdPort => .readData (s.cas.port.setWidth 32)
  | .rdAdHost0 => .readData (readRegister s.cas.host 0)
  | .rdAdHost1 => .readData (readRegister s.cas.host 1)
  | .rdAdHost2 => .readData (readRegister s.cas.host 2)
  | .rdAdHost3 => .readData (readRegister s.cas.host 3)
  | .rdAdLen => .readData (s.cas.len.setWidth 32)
  | .rdAdResult => .readData (s.cas.result.setWidth 32)
  | .rdAdBuf0 => .readData (readRegister s.cas.buf 0)
  | .rdAdBuf1 => .readData (readRegister s.cas.buf 1)
  | .rdAdBuf2 => .readData (readRegister s.cas.buf 2)
  | .rdAdBuf3 => .readData (readRegister s.cas.buf 3)
  | .rdAdBuf4 => .readData (readRegister s.cas.buf 4)
  | .rdAdEncode => .readData 0
  | .rdAdDecode => .readData 0
  | .rdRsvd7C => .readData 0
  | .pulse _ =>
    .serialOut (if s.lct.en then (s.lct.shiftSource (Config.idleTxWord s.draws)).getLsbD 31
      else Config.soDisabled s.draws)
  | _ => .nothing

/-- Everything an operation can do: every operation has a next state, whose transport, codec, draw counter and answer
are the ones given above, with the events to come left alone. -/
theorem exec_next (i : Instr) (s : State) :
    ∃ t, exec i s = .next t ∧ t.lct = lctAfter i s ∧ t.inputs = s.inputs ∧ t.cas = casAfter i s.cas ∧
      t.draws = drawsAfter i s ∧ t.out = outAfter i s := by
  cases i
  case pulse si =>
    rw [exec_pulse]
    by_cases h : s.lct.en <;> exact ⟨_, rfl, by simp [lctAfter, casAfter, drawsAfter, outAfter, h, State.pulseEnabled, State.pulseDisabled]⟩
  all_goals
    simp only [exec_rdLctCtrl, exec_rdLctStatus, exec_rdLctRxdata, exec_rdLctTxdata, exec_rdLctReset, exec_rdLctClear,
      exec_rdRsvd18, exec_rdRsvd1C, exec_rdCkClear, exec_rdCkData, exec_rdCkSum, exec_rdCkExpect,
      exec_rdCkStatus, exec_rdRsvd34, exec_rdRsvd38, exec_rdRsvd3C, exec_rdAdType, exec_rdAdPort,
      exec_rdAdHost0, exec_rdAdHost1, exec_rdAdHost2, exec_rdAdHost3, exec_rdAdLen, exec_rdAdResult,
      exec_rdAdBuf0, exec_rdAdBuf1, exec_rdAdBuf2, exec_rdAdBuf3, exec_rdAdBuf4, exec_rdAdEncode,
      exec_rdAdDecode, exec_rdRsvd7C, exec_wrLctCtrl, exec_wrLctStatus, exec_wrLctRxdata, exec_wrLctTxdata,
      exec_wrLctReset, exec_wrLctClear, exec_wrRsvd18, exec_wrRsvd1C, exec_wrCkClear, exec_wrCkData,
      exec_wrCkSum, exec_wrCkExpect, exec_wrCkStatus, exec_wrRsvd34, exec_wrRsvd38, exec_wrRsvd3C,
      exec_wrAdType, exec_wrAdPort, exec_wrAdHost0, exec_wrAdHost1, exec_wrAdHost2, exec_wrAdHost3,
      exec_wrAdLen, exec_wrAdResult, exec_wrAdBuf0, exec_wrAdBuf1, exec_wrAdBuf2, exec_wrAdBuf3,
      exec_wrAdBuf4, exec_wrAdEncode, exec_wrAdDecode, exec_wrRsvd7C]
    exact ⟨_, rfl, by simp [lctAfter, casAfter, drawsAfter, outAfter]⟩

/-- The next state of every operation, field by field. -/
theorem exec_eq (i : Instr) (s : State) : exec i s = .next
    { lct := lctAfter i s, cas := casAfter i s.cas, out := outAfter i s, draws := drawsAfter i s
      inputs := s.inputs } := by
  obtain ⟨t, h, hl, hi, hc, hd, ho⟩ := exec_next i s
  rw [h, ← hl, ← hi, ← hc, ← hd, ← ho]

/-- Everything an operation can do to LCT. -/
theorem exec_lct (i : Instr) (s : State) :
    ∃ t, exec i s = .next t ∧ t.lct = lctAfter i s ∧ t.inputs = s.inputs :=
  let ⟨t, h, hl, hi, _⟩ := exec_next i s
  ⟨t, h, hl, hi⟩

/-- LCT after a pulse while `EN = 1` (R120). -/
theorem lctAfter_pulse_enabled (si : Bool) {s : State} (h : s.lct.en = true) :
    lctAfter (.pulse si) s = s.lct.exchange (Config.idleTxWord s.draws) si := by
  simp [lctAfter, h]

/-- LCT after a pulse while `EN = 0` (R121). -/
theorem lctAfter_pulse_disabled (si : Bool) {s : State} (h : s.lct.en = false) : lctAfter (.pulse si) s = s.lct := by
  simp [lctAfter, h]

/-- Every operation has a next state (R9). -/
theorem exec_completes (i : Instr) (s : State) : ∃ t, exec i s = .next t :=
  let ⟨t, h, _⟩ := exec_lct i s
  ⟨t, h⟩

/-- The transport after an operation. -/
theorem lct_of_exec {i : Instr} {s t : State} (h : exec i s = .next t) : t.lct = lctAfter i s := by
  obtain ⟨u, hu, hl, _⟩ := exec_lct i s
  obtain rfl : u = t := by rw [h] at hu; injection hu with e; exact e.symm
  exact hl

/-- The codec and the draw counter after an operation. -/
theorem cas_draws_of_exec {i : Instr} {s t : State} (h : exec i s = .next t) :
    t.cas = casAfter i s.cas ∧ t.draws = drawsAfter i s := by
  obtain ⟨u, hu, _, _, hc, hd, _⟩ := exec_next i s
  obtain rfl : u = t := by rw [h] at hu; injection hu with e; exact e.symm
  exact ⟨hc, hd⟩

/-- No operation changes the events to come. -/
theorem inputs_of_exec {i : Instr} {s t : State} (h : exec i s = .next t) : t.inputs = s.inputs := by
  obtain ⟨u, hu, _, hi⟩ := exec_lct i s
  obtain rfl : u = t := by rw [h] at hu; injection hu with e; exact e.symm
  exact hi

/-- Everything a step can do: with no event nothing, else the effect of the oldest event, which it takes. -/
theorem step_cases {s t : State} (h : step s = .next t) :
    (s.inputs = [] ∧ t = s) ∨
    (∃ e rest i, s.inputs = e :: rest ∧ fetch e = .operation i ∧ exec i (s.setInputs rest) = .next t) ∨
    (∃ e rest, s.inputs = e :: rest ∧ fetch e = .powerOn ∧ t = powerOnReset (s.setInputs rest)) := by
  unfold step at h
  split at h
  · rename_i he
    injection h with h
    exact .inl ⟨he, h.symm⟩
  · rename_i e rest he
    split at h
    · rename_i i hf
      exact .inr (.inl ⟨e, rest, i, he, hf, h⟩)
    · rename_i hf
      injection h with h
      exact .inr (.inr ⟨e, rest, he, hf, h.symm⟩)
    · cases h

/-- A step with an operation as its next event is that operation. -/
theorem step_operation {s : State} {e : Input} {rest : List Input} {i : Instr} (hs : s.inputs = e :: rest)
    (hf : fetch e = .operation i) : step s = exec i (s.setInputs rest) := by
  simp [step, hs, hf]

/-- A step with the power-on reset as its next event is that reset. -/
theorem step_powerOn {s : State} {e : Input} {rest : List Input} (hs : s.inputs = e :: rest)
    (hf : fetch e = .powerOn) : step s = .next (powerOnReset (s.setInputs rest)) := by
  simp [step, hs, hf]

/-- A run of one more step: the step, then the rest of the run. -/
theorem core_run_succ {s t : State} (h : step s = .next t) (n : Nat) : core.run (n + 1) s = core.run n t := by
  have h' : core.step s = .next t := h
  simp only [Host.Core.run, h']

/-- A write of LCT_CTRL that keeps the width clears nothing (R103). -/
theorem Lct.writeCtrl_same {l : Lct} {v : Word} (h : w32Field v = l.w32) :
    l.writeCtrl v = { l with en := enField v, w32 := w32Field v, ie := ieField v } := by
  simp [Lct.writeCtrl, h]

/-- A write of LCT_CTRL that changes the width clears framing and buffers (R103). -/
theorem Lct.writeCtrl_change {l : Lct} {v : Word} (h : w32Field v ≠ l.w32) :
    l.writeCtrl v =
      { l.clearFraming.clearBuffers with en := enField v, w32 := w32Field v, ie := ieField v } := by
  simp [Lct.writeCtrl, h]

/-- One exchange that does not end the word (R120). -/
theorem Lct.exchange_within {l : Lct} (idle : Word) (si : Bool) (h : l.endsWord = false) :
    l.exchange idle si = { l with
      txp := l.txp && !l.startsWord, txsr := l.shiftSource idle <<< 1, rxsr := l.shiftedIn si
      bitcnt := l.bitcnt + 1 } := by
  simp [Lct.exchange, h]

/-- One exchange that ends the word (R120). -/
theorem Lct.exchange_ends {l : Lct} (idle : Word) (si : Bool) (h : l.endsWord = true) :
    l.exchange idle si = { l with
      txp := l.txp && !l.startsWord, txsr := l.shiftSource idle <<< 1, rxsr := l.shiftedIn si
      rxbuf := l.shiftedIn si &&& mask l.width, rxv := true, bitcnt := 0 } := by
  simp [Lct.exchange, h]

/-- An exchange keeps the control fields. -/
@[simp] theorem Lct.exchange_en (l : Lct) (idle : Word) (si : Bool) : (l.exchange idle si).en = l.en := by
  unfold Lct.exchange; split <;> rfl
@[simp] theorem Lct.exchange_w32 (l : Lct) (idle : Word) (si : Bool) : (l.exchange idle si).w32 = l.w32 := by
  unfold Lct.exchange; split <;> rfl
@[simp] theorem Lct.exchange_ie (l : Lct) (idle : Word) (si : Bool) : (l.exchange idle si).ie = l.ie := by
  unfold Lct.exchange; split <;> rfl
@[simp] theorem Lct.exchange_txbuf (l : Lct) (idle : Word) (si : Bool) : (l.exchange idle si).txbuf = l.txbuf := by
  unfold Lct.exchange; split <;> rfl

/-- Two operations one after the other, for sequences. -/
theorem runOps_append (is js : List Instr) (s : State) :
    runOps (is ++ js) s =
      (runOps is s).bind fun (os, t) => (runOps js t).bind fun (ps, u) => some (os ++ ps, u) := by
  induction is generalizing s with
  | nil => cases h : runOps js s <;> simp [runOps, h]
  | cons i is ih =>
    simp only [List.cons_append, runOps]
    cases h1 : runOp i s with
    | none => rfl
    | some p =>
      obtain ⟨o, s1⟩ := p
      simp only [ih]
      cases h2 : runOps is s1 with
      | none => rfl
      | some q =>
        obtain ⟨os, s2⟩ := q
        cases h3 : runOps js s2 <;> simp [h3]

/-- Two sequences of operations that both complete, one after the other. -/
theorem runOps_trans {is js : List Instr} {s t u : State} {os ps : List Output} (h : runOps is s = some (os, t))
    (h' : runOps js t = some (ps, u)) : runOps (is ++ js) s = some (os ++ ps, u) := by
  rw [runOps_append, h]
  simp [h']

/-- Every sequence of operations completes, with one answer each (R9). -/
theorem runOps_completes (is : List Instr) (s : State) :
    ∃ os t, runOps is s = some (os, t) ∧ os.length = is.length := by
  induction is generalizing s with
  | nil => exact ⟨[], s, rfl, rfl⟩
  | cons i is ih =>
    obtain ⟨s1, h1⟩ := exec_completes i s
    obtain ⟨os, t, h2, hl⟩ := ih s1
    exact ⟨s1.out :: os, t, by simp [runOps, runOp, h1, h2], by simp [hl]⟩

/-- The bits on SO of two lists of answers. -/
theorem serialBits_append (os ps : List Output) : serialBits (os ++ ps) = serialBits os ++ serialBits ps := by
  induction os with
  | nil => rfl
  | cons o os ih => cases o <;> simp [serialBits, ih]

/-- The input bits of two lists of operations. -/
theorem pulseBits_append (is js : List Instr) : pulseBits (is ++ js) = pulseBits is ++ pulseBits js := by
  induction is with
  | nil => rfl
  | cons i is ih => cases i <;> simp [pulseBits, ih]

/-- The bytes fed by two lists of operations. -/
theorem fedBytes_append (is js : List Instr) : fedBytes (is ++ js) = fedBytes is ++ fedBytes js := by
  induction is with
  | nil => rfl
  | cons i is ih => cases i <;> simp [fedBytes, ih]

/-- Sequences of accesses compose. -/
theorem accesses_append (is js : List Instr) (s : State) :
    accesses (is ++ js) s = (accesses is s).bind (accesses js) := by
  induction is generalizing s with
  | nil => rfl
  | cons i is ih =>
    simp only [List.cons_append, accesses]
    cases access i s with
    | none => rfl
    | some p => exact ih p.2

/-- The tags of this hardware are pairwise distinct, whatever the three free bytes are (R163). -/
theorem Config_tags_distinct : Config.tags.distinct = true := by
  have key : ∀ a b c : Byte, (Config.Tags.ofPicks a b c).distinct = true := by
    intro a b c
    simp only [Config.Tags.ofPicks, Config.Tags.distinct, Bool.and_eq_true, bne_iff_ne, ne_eq]
    split_ifs <;> refine ⟨⟨?_, ?_⟩, ?_⟩ <;> bv_omega
  exact key _ _ _

end Sys2Proof.Machine
end

