-- ==== Sys2Proof/Machine/Assembly.lean ====
section
/-! DEFINITION. Assembly lines (R83 of 30_encoding.md): one operation a line. -/

namespace Sys2Proof.Machine

/-- The digits of a hexadecimal literal, at least one, as R6 writes literals. -/
def hexDigits (n : Nat) : String := String.ofList ((Nat.toDigits 16 n).map Char.toUpper)

/-- `WR <register>, <value>`, the value a hexadecimal constant (log 24). -/
def writeLine (register : String) (v : Word) : String := "WR " ++ register ++ ", 0x" ++ hexDigits v.toNat

/-- The line that writes an operation (R83). -/
def assembly : Instr → String
  | .rdLctCtrl => "RD LCT_CTRL"
  | .rdLctStatus => "RD LCT_STATUS"
  | .rdLctRxdata => "RD LCT_RXDATA"
  | .rdLctTxdata => "RD LCT_TXDATA"
  | .rdLctReset => "RD LCT_RESET"
  | .rdLctClear => "RD LCT_CLEAR"
  | .rdRsvd18 => "RD RSVD_18"
  | .rdRsvd1C => "RD RSVD_1C"
  | .rdCkClear => "RD CK_CLEAR"
  | .rdCkData => "RD CK_DATA"
  | .rdCkSum => "RD CK_SUM"
  | .rdCkExpect => "RD CK_EXPECT"
  | .rdCkStatus => "RD CK_STATUS"
  | .rdRsvd34 => "RD RSVD_34"
  | .rdRsvd38 => "RD RSVD_38"
  | .rdRsvd3C => "RD RSVD_3C"
  | .rdAdType => "RD AD_TYPE"
  | .rdAdPort => "RD AD_PORT"
  | .rdAdHost0 => "RD AD_HOST0"
  | .rdAdHost1 => "RD AD_HOST1"
  | .rdAdHost2 => "RD AD_HOST2"
  | .rdAdHost3 => "RD AD_HOST3"
  | .rdAdLen => "RD AD_LEN"
  | .rdAdResult => "RD AD_RESULT"
  | .rdAdBuf0 => "RD AD_BUF0"
  | .rdAdBuf1 => "RD AD_BUF1"
  | .rdAdBuf2 => "RD AD_BUF2"
  | .rdAdBuf3 => "RD AD_BUF3"
  | .rdAdBuf4 => "RD AD_BUF4"
  | .rdAdEncode => "RD AD_ENCODE"
  | .rdAdDecode => "RD AD_DECODE"
  | .rdRsvd7C => "RD RSVD_7C"
  | .wrLctCtrl v => writeLine "LCT_CTRL" v
  | .wrLctStatus v => writeLine "LCT_STATUS" v
  | .wrLctRxdata v => writeLine "LCT_RXDATA" v
  | .wrLctTxdata v => writeLine "LCT_TXDATA" v
  | .wrLctReset v => writeLine "LCT_RESET" v
  | .wrLctClear v => writeLine "LCT_CLEAR" v
  | .wrRsvd18 v => writeLine "RSVD_18" v
  | .wrRsvd1C v => writeLine "RSVD_1C" v
  | .wrCkClear v => writeLine "CK_CLEAR" v
  | .wrCkData v => writeLine "CK_DATA" v
  | .wrCkSum v => writeLine "CK_SUM" v
  | .wrCkExpect v => writeLine "CK_EXPECT" v
  | .wrCkStatus v => writeLine "CK_STATUS" v
  | .wrRsvd34 v => writeLine "RSVD_34" v
  | .wrRsvd38 v => writeLine "RSVD_38" v
  | .wrRsvd3C v => writeLine "RSVD_3C" v
  | .wrAdType v => writeLine "AD_TYPE" v
  | .wrAdPort v => writeLine "AD_PORT" v
  | .wrAdHost0 v => writeLine "AD_HOST0" v
  | .wrAdHost1 v => writeLine "AD_HOST1" v
  | .wrAdHost2 v => writeLine "AD_HOST2" v
  | .wrAdHost3 v => writeLine "AD_HOST3" v
  | .wrAdLen v => writeLine "AD_LEN" v
  | .wrAdResult v => writeLine "AD_RESULT" v
  | .wrAdBuf0 v => writeLine "AD_BUF0" v
  | .wrAdBuf1 v => writeLine "AD_BUF1" v
  | .wrAdBuf2 v => writeLine "AD_BUF2" v
  | .wrAdBuf3 v => writeLine "AD_BUF3" v
  | .wrAdBuf4 v => writeLine "AD_BUF4" v
  | .wrAdEncode v => writeLine "AD_ENCODE" v
  | .wrAdDecode v => writeLine "AD_DECODE" v
  | .wrRsvd7C v => writeLine "RSVD_7C" v
  | .pulse si => "PULSE " ++ (if si then "1" else "0")

end Sys2Proof.Machine
end

