-- ==== Sys2Proof/Tests/Slice0.lean ====
section
/-! SUPPORT. Our own tests: the smoke tests of WellFormed, words written out from the spec's encoding, single
operations against the vectors of 95_test_vectors.md, and for every obligation with hypotheses a state that meets
them. -/

namespace Sys2Proof.Tests

open Sys2Proof.Machine

/-! ## Helpers -/

/-- The machine after reset with another transport. -/
def lctState (l : Lct) : State := { State.reset with lct := l }

/-- The machine after reset with another codec. -/
def casState (c : Cas) : State := { State.reset with cas := c }

/-- What an operation answers. -/
def outOf (i : Instr) (s : State) : Option Output := (runOp i s).map Prod.fst

/-- The transport after an operation. -/
def lctOf (i : Instr) (s : State) : Option Lct := (runOp i s).map fun p => p.2.lct

/-- The codec after an operation. -/
def casOf (i : Instr) (s : State) : Option Cas := (runOp i s).map fun p => p.2.cas

/-- The transport enabled, 8 bits wide, nothing received. -/
def enabled : Lct := { Lct.reset with en := true }

/-- The bytes of vector A2: IPv4 192.168.1.2, port 8080. -/
def bytesA2 : List Byte := [0x01, 0x1F, 0x90, 0xC0, 0xA8, 0x01, 0x02]

/-- The codec that holds vector A2 in BUF. -/
def bufA2 : Cas := { Cas.reset with buf := writeBytes Cas.reset.buf 0 bytesA2, len := 7 }

/-- The frame `F` of 95_test_vectors.md section 2.5. -/
def frameF : List Byte := [0x42, 0x1F, 0x90, 0x00, 0xF1]

/-! ## WellFormed refuses each ill-formed term -/

theorem test_wellFormed_accepts : (HostAccess.mk .read 0x107C .bits32 0).wellFormed 0x1000 = true := by decide
theorem test_wellFormed_refuses_8_bits : (HostAccess.mk .read 0x1008 .bits8 0).wellFormed 0x1000 = false := by decide
theorem test_wellFormed_refuses_16_bits : (HostAccess.mk .write 0x1008 .bits16 0).wellFormed 0x1000 = false := by
  decide
theorem test_wellFormed_refuses_below_window : (HostAccess.mk .read 0xFFC .bits32 0).wellFormed 0x1000 = false := by
  decide
theorem test_wellFormed_refuses_above_window : (HostAccess.mk .read 0x1080 .bits32 0).wellFormed 0x1000 = false := by
  decide
theorem test_wellFormed_refuses_misaligned : (HostAccess.mk .read 0x1006 .bits32 0).wellFormed 0x1000 = false := by
  decide
theorem test_wellFormed_refuses_frame_call : (FrameCall.mk [0x42] 1 2).wellFormed = false := by decide
theorem test_wellFormed_refuses_equal_tags : tagsWellFormed { none := 1, ipv4 := 1, ipv6 := 2 } = false := by decide
theorem test_wellFormed_accepts_operation : (Instr.wrAdType 0xFFFFFFFF).wellFormed = true := by decide

/-! ## Words written out from R70, R71 and R79 -/

/-- The reads: OFF, then a byte with DIR = 0. -/
def readWords : List (Byte × Instr) :=
  [(0x00, .rdLctCtrl), (0x04, .rdLctStatus), (0x08, .rdLctRxdata), (0x0C, .rdLctTxdata),
    (0x10, .rdLctReset), (0x14, .rdLctClear), (0x18, .rdRsvd18), (0x1C, .rdRsvd1C),
    (0x20, .rdCkClear), (0x24, .rdCkData), (0x28, .rdCkSum), (0x2C, .rdCkExpect),
    (0x30, .rdCkStatus), (0x34, .rdRsvd34), (0x38, .rdRsvd38), (0x3C, .rdRsvd3C),
    (0x40, .rdAdType), (0x44, .rdAdPort), (0x48, .rdAdHost0), (0x4C, .rdAdHost1),
    (0x50, .rdAdHost2), (0x54, .rdAdHost3), (0x58, .rdAdLen), (0x5C, .rdAdResult),
    (0x60, .rdAdBuf0), (0x64, .rdAdBuf1), (0x68, .rdAdBuf2), (0x6C, .rdAdBuf3),
    (0x70, .rdAdBuf4), (0x74, .rdAdEncode), (0x78, .rdAdDecode), (0x7C, .rdRsvd7C)]

/-- The writes of 0x04030201: OFF, then a byte with DIR = 1, then the operand. -/
def writeWords : List (Byte × Instr) :=
  [(0x00, .wrLctCtrl 0x04030201), (0x04, .wrLctStatus 0x04030201), (0x08, .wrLctRxdata 0x04030201),
    (0x0C, .wrLctTxdata 0x04030201), (0x10, .wrLctReset 0x04030201), (0x14, .wrLctClear 0x04030201),
    (0x18, .wrRsvd18 0x04030201), (0x1C, .wrRsvd1C 0x04030201), (0x20, .wrCkClear 0x04030201),
    (0x24, .wrCkData 0x04030201), (0x28, .wrCkSum 0x04030201), (0x2C, .wrCkExpect 0x04030201),
    (0x30, .wrCkStatus 0x04030201), (0x34, .wrRsvd34 0x04030201), (0x38, .wrRsvd38 0x04030201),
    (0x3C, .wrRsvd3C 0x04030201), (0x40, .wrAdType 0x04030201), (0x44, .wrAdPort 0x04030201),
    (0x48, .wrAdHost0 0x04030201), (0x4C, .wrAdHost1 0x04030201), (0x50, .wrAdHost2 0x04030201),
    (0x54, .wrAdHost3 0x04030201), (0x58, .wrAdLen 0x04030201), (0x5C, .wrAdResult 0x04030201),
    (0x60, .wrAdBuf0 0x04030201), (0x64, .wrAdBuf1 0x04030201), (0x68, .wrAdBuf2 0x04030201),
    (0x6C, .wrAdBuf3 0x04030201), (0x70, .wrAdBuf4 0x04030201), (0x74, .wrAdEncode 0x04030201),
    (0x78, .wrAdDecode 0x04030201), (0x7C, .wrRsvd7C 0x04030201)]

theorem test_decode_every_read :
    readWords.all (fun p => (decode { format := .a, bytes := [p.1, 0x00] }).toOption == some p.2) = true := by decide
theorem test_decode_every_write :
    writeWords.all (fun p =>
      (decode { format := .a, bytes := [p.1, 0x01, 0x01, 0x02, 0x03, 0x04] }).toOption == some p.2) = true := by decide
theorem test_every_register_written_out : readWords.length = 32 ∧ writeWords.length = 32 := by decide
theorem test_decode_pulse_0 : decode { format := .p, bytes := [0x00] } = .ok (.pulse false) := rfl
theorem test_decode_pulse_1 : decode { format := .p, bytes := [0x01] } = .ok (.pulse true) := rfl
/-- X4, X5 of 95_test_vectors.md as descriptors. -/
theorem test_decode_refuses_misaligned : decode { format := .a, bytes := [0x06, 0x00] } = .error .noRegister := rfl
theorem test_decode_refuses_above_window :
    decode { format := .a, bytes := [0x80, 0x01, 0, 0, 0, 0] } = .error .noRegister := rfl
theorem test_decode_refuses_bit_9 : decode { format := .a, bytes := [0x04, 0x02] } = .error .reservedBits := rfl
theorem test_decode_refuses_pulse_2 : decode { format := .p, bytes := [0x02] } = .error .reservedBits := rfl
theorem test_decode_refuses_short_write :
    decode { format := .a, bytes := [0x0C, 0x01, 0x34, 0x12, 0x00] } = .error .truncated := rfl
theorem test_decode_refuses_empty : decode { format := .p, bytes := [] } = .error .truncated := rfl
theorem test_decode_refuses_trailing : decode { format := .a, bytes := [0x08, 0x00, 0x00] } = .error .trailingBytes :=
  rfl
theorem test_table_word_read : decodeTableWord 16 0x008 = some .rdLctRxdata := by decide
theorem test_table_word_write : decodeTableWord 16 0x148 = some (.wrAdHost0 0) := by decide
theorem test_table_word_operand : decodeTableWord 48 0x0201A8C00148 = some (.wrAdHost0 0x0201A8C0) := by decide
theorem test_table_word_pulse : decodeTableWord 0 0 = some (.pulse false) ∧ decodeTableWord 8 1 = some (.pulse true) := by
  decide
theorem test_withFetchWord_runs_it (s : State) : step (s.withFetchWord 16 0x120) = exec (.wrCkClear 0) s := rfl
/-- The example lines of R83. -/
theorem test_assembly : assembly (.wrLctTxdata 0xA5) = "WR LCT_TXDATA, 0xA5" ∧ assembly .rdLctRxdata = "RD LCT_RXDATA" ∧
    assembly (.pulse true) = "PULSE 1" := by decide

/-! ## The transport's registers: T1 to T24 -/

theorem test_T1 : outOf .rdLctCtrl State.reset = some (.readData 0) := by decide
theorem test_T2 : outOf .rdLctCtrl (lctState { enabled with w32 := true, ie := true }) = some (.readData 7) := by decide
theorem test_T4 : outOf .rdLctStatus (lctState { enabled with txp := true, bitcnt := 3 }) = some (.readData 0x302) := by
  decide
theorem test_T5 : outOf .rdLctStatus (lctState { Lct.reset with ie := true, rxv := true }) = some (.readData 5) := by
  decide
theorem test_T7 : runOp .rdLctRxdata (lctState { Lct.reset with rxbuf := 0x3C, rxv := true }) =
    some (.readData 0x3C, { lctState { Lct.reset with rxbuf := 0x3C } with out := .readData 0x3C }) := by decide
theorem test_T10 : outOf .rdLctRxdata (lctState { Lct.reset with w32 := true, rxbuf := 0xDEADBEEF, rxv := true }) =
    some (.readData 0xDEADBEEF) := by decide
theorem test_T11 : lctOf (.wrLctTxdata 0x1234) State.reset =
    some { Lct.reset with txbuf := 0x34000000, txp := true } := by decide
theorem test_T12 : lctOf (.wrLctTxdata 0x12345678) (lctState { Lct.reset with w32 := true }) =
    some { Lct.reset with w32 := true, txbuf := 0x12345678, txp := true } := by decide
theorem test_T15 : lctOf (.wrLctCtrl 0x7)
      (lctState { enabled with ie := true, bitcnt := 3, rxsr := 9, txsr := 9, rxv := true, rxbuf := 0x3C, txp := true
                               txbuf := 9 }) =
    some { enabled with w32 := true, ie := true } := by decide
theorem test_T16 : lctOf (.wrLctCtrl 0x1) (lctState { enabled with ie := true, bitcnt := 3, rxv := true }) =
    some { enabled with bitcnt := 3, rxv := true } := by decide
theorem test_T18 : lctOf (.wrLctReset 0)
      (lctState { Lct.reset with bitcnt := 5, txp := true, txbuf := 9, rxv := true, w32 := true, ie := true }) =
    some { enabled with w32 := true, ie := true } := by decide
theorem test_T19 : lctOf (.wrLctClear 0)
      (lctState { Lct.reset with rxv := true, rxbuf := 0x3C, bitcnt := 2, txsr := 0x40000000, txp := true }) =
    some { Lct.reset with bitcnt := 2, txsr := 0x40000000 } := by decide
theorem test_T20 : outOf .rdLctTxdata (lctState { Lct.reset with txp := true, txbuf := 9 }) = some (.readData 0) := by
  decide
theorem test_T21 : lctOf .rdLctReset (lctState { Lct.reset with bitcnt := 5 }) = some { Lct.reset with bitcnt := 5 } := by
  decide
theorem test_T22 : lctOf .rdLctClear (lctState { Lct.reset with rxv := true }) = some { Lct.reset with rxv := true } := by
  decide
theorem test_T23 : lctOf (.wrLctStatus 1) (lctState { Lct.reset with rxv := true }) =
    some { Lct.reset with rxv := true } := by decide
theorem test_T24 : lctOf (.wrLctRxdata 0) (lctState { Lct.reset with rxv := true, rxbuf := 0x3C }) =
    some { Lct.reset with rxv := true, rxbuf := 0x3C } := by decide

/-! ## The pulse -/

/-- The first pulse of P-1: so = 1. -/
theorem test_P1_first : outOf (.pulse false) (lctState { enabled with txp := true, txbuf := 0xA5000000 }) =
    some (.serialOut true) := by decide
/-- P-8: the last bit of a word. -/
theorem test_P8 : lctOf (.pulse false) (lctState { enabled with bitcnt := 7, ie := true, rxsr := 0x1E }) =
    some { enabled with ie := true, rxsr := 0x3C, rxbuf := 0x3C, rxv := true } := by decide

/-! ## The checksum unit: K1 to K20 -/

theorem test_K1 : casOf (.wrCkClear 0x12345678) (casState { Cas.reset with acc := 0xBEEF, expect := 5 }) =
    some { Cas.reset with expect := 5 } := by decide
theorem test_K2 : casOf (.wrCkData 0x20) (casState { Cas.reset with acc := 0xFFF0 }) =
    some { Cas.reset with acc := 0x0010 } := by decide
theorem test_K3 : casOf (.wrCkData 0x1FF) State.reset = some { Cas.reset with acc := 0x00FF } := by decide
theorem test_K6 : outOf .rdCkSum (casState { Cas.reset with acc := 6 }) = some (.readData 6) := by decide
theorem test_K7_write : casOf (.wrCkExpect 0xFFFF1234) State.reset = some { Cas.reset with expect := 0x1234 } := by
  decide
theorem test_K7_read : outOf .rdCkExpect (casState { Cas.reset with expect := 0x1234 }) = some (.readData 0x1234) := by
  decide
theorem test_K9 : outOf .rdCkStatus (casState { Cas.reset with acc := 6, expect := 0x600 }) = some (.readData 0) := by
  decide
theorem test_K10 : outOf .rdCkStatus State.reset = some (.readData 1) := by decide
theorem test_K11 : outOf .rdCkData (casState { Cas.reset with acc := 0x42 }) = some (.readData 0) ∧
    casOf .rdCkClear (casState { Cas.reset with acc := 0x42 }) = some { Cas.reset with acc := 0x42 } := by decide
theorem test_K12 : casOf (.wrCkSum 0x1234) State.reset = some Cas.reset ∧
    casOf (.wrCkStatus 0) State.reset = some Cas.reset := by decide
theorem test_K13 : appendChecksum [1, 2, 3] = [0x00, 0x06] := by decide
theorem test_K17 : verify [1, 2, 3] [0x06, 0x00] = false := by decide
theorem test_K18 : checksum [0x42, 0x1F, 0x90] = 0xF1 ∧ checksum [0x42, 0x90, 0x1F] = 0xF1 := by decide
theorem test_S1 : checksum [] = 0 := by decide

/-! ## The serializer: A1 to A19, with the spec's default tags where a tag byte shows -/

theorem test_A1 : Cas.reset.encodeRecord Config.Tags.default = { Cas.reset with len := 1 } := by decide
theorem test_A2 : (({ Cas.reset with type := 1, port := 0x1F90 } : Cas).bufWith 0x01 4).toList.take 7 =
    [0x01, 0x1F, 0x90, 0x00, 0x00, 0x00, 0x00] := by decide
theorem test_A2_record : encodeAddress Config.Tags.default (.ipv4 8080 #v[0xC0, 0xA8, 0x01, 0x02]) = bytesA2 := by decide
theorem test_A2_read : outOf .rdAdBuf0 (casState bufA2) = some (.readData 0xC0901F01) ∧
    outOf .rdAdBuf1 (casState bufA2) = some (.readData 0x000201A8) := by decide
theorem test_A4 : casOf (.wrAdEncode 0) (casState { bufA2 with type := 3 }) = some { bufA2 with type := 3, len := 0 } := by
  decide
theorem test_A5 : bufA2.decodeRecord Config.Tags.default =
    { bufA2 with type := 1, port := 0x1F90, result := 7
                 host := writeRegister Cas.reset.host 0 0x0201A8C0 } := by decide
theorem test_A6 : ({ bufA2 with len := 6, result := 7 } : Cas).decodeRecord Config.Tags.default =
    { bufA2 with len := 6, result := 0 } := by decide
theorem test_A7 : casOf (.wrAdDecode 0) (casState { bufA2 with len := 0, result := 7 }) =
    some { bufA2 with len := 0, result := 0 } := by decide
theorem test_A10 : decodeAddress Config.Tags.default [0x00, 0xAA] = (some .none, 1) := by decide
theorem test_A14_write : casOf (.wrAdPort 0xABCD1F90) State.reset = some { Cas.reset with port := 0x1F90 } := by decide
theorem test_A14_read : outOf .rdAdPort (casState { Cas.reset with port := 0x1F90 }) = some (.readData 0x1F90) := by
  decide
theorem test_A15_write : casOf (.wrAdType 0xFFFFFFFF) State.reset = some { Cas.reset with type := 3 } := by decide
theorem test_A15_read : outOf .rdAdType (casState { Cas.reset with type := 3 }) = some (.readData 3) := by decide
theorem test_A16_write : casOf (.wrAdLen 0x1FF) State.reset = some { Cas.reset with len := 255 } := by decide
theorem test_A16_read : outOf .rdAdLen (casState { Cas.reset with len := 255 }) = some (.readData 0xFF) := by decide
theorem test_A17_write : casOf (.wrAdResult 7) State.reset = some Cas.reset := by decide
theorem test_A17_read : outOf .rdAdResult (casState { Cas.reset with result := 19 }) = some (.readData 19) := by decide
theorem test_A18 : casOf .rdAdEncode (casState bufA2) = some bufA2 ∧ casOf .rdAdDecode (casState bufA2) = some bufA2 := by
  decide
theorem test_A19 : (casOf (.wrAdHost1 0x44332211) State.reset).map (fun c => (readBytes c.host 3 6)) =
    some [0x00, 0x11, 0x22, 0x33, 0x44, 0x00] := by decide
/-- The other registers of the byte arrays, by R32, R35: byte 4k + j is bits 8j+7 : 8j. -/
theorem test_host_registers :
    (casOf (.wrAdHost0 0x44332211) State.reset).map (fun c => readByte c.host 0) = some 0x11 ∧
    (casOf (.wrAdHost2 0x44332211) State.reset).map (fun c => readByte c.host 9) = some 0x22 ∧
    (casOf (.wrAdHost3 0x44332211) State.reset).map (fun c => readByte c.host 15) = some 0x44 := by decide
theorem test_buf_registers :
    (casOf (.wrAdBuf0 0x44332211) State.reset).map (fun c => readByte c.buf 3) = some 0x44 ∧
    (casOf (.wrAdBuf1 0x44332211) State.reset).map (fun c => readByte c.buf 4) = some 0x11 ∧
    (casOf (.wrAdBuf2 0x44332211) State.reset).map (fun c => readByte c.buf 9) = some 0x22 ∧
    (casOf (.wrAdBuf3 0x44332211) State.reset).map (fun c => readByte c.buf 14) = some 0x33 ∧
    (casOf (.wrAdBuf4 0x44332211) State.reset).map (fun c => readByte c.buf 19) = some 0x44 := by decide
theorem test_host_reads :
    outOf .rdAdHost0 (casState { Cas.reset with host := writeByte Cas.reset.host 1 0xA8 }) = some (.readData 0xA800) ∧
    outOf .rdAdHost1 (casState { Cas.reset with host := writeByte Cas.reset.host 4 0xA8 }) = some (.readData 0xA8) ∧
    outOf .rdAdHost2 (casState { Cas.reset with host := writeByte Cas.reset.host 10 0xA8 }) =
      some (.readData 0xA80000) ∧
    outOf .rdAdHost3 (casState { Cas.reset with host := writeByte Cas.reset.host 15 0x01 }) =
      some (.readData 0x01000000) := by decide
theorem test_buf_reads :
    outOf .rdAdBuf2 (casState { Cas.reset with buf := writeByte Cas.reset.buf 8 0xA8 }) = some (.readData 0xA8) ∧
    outOf .rdAdBuf3 (casState { Cas.reset with buf := writeByte Cas.reset.buf 13 0xA8 }) = some (.readData 0xA800) ∧
    outOf .rdAdBuf4 (casState { Cas.reset with buf := writeByte Cas.reset.buf 18 0x01 }) =
      some (.readData 0x00010000) := by decide

/-! ## Frames and refused accesses: F1 to F12, X1 to X5 -/

theorem test_F1 : frameCheck 64 ⟨frameF, 5, 5⟩ = .accept 0x42 [0x1F, 0x90] := by decide
theorem test_F2_to_F5 : frameCheck 64 ⟨frameF, 0, 5⟩ = .drop ∧ frameCheck 64 ⟨frameF, 2, 5⟩ = .drop ∧
    frameCheck 64 ⟨frameF, 5, 2⟩ = .drop ∧ frameCheck 64 ⟨frameF, 3, 5⟩ = .drop := by decide
theorem test_F6_to_F9 : frameCheck 64 ⟨frameF, 6, 5⟩ = .accept 0x42 [0x1F, 0x90] ∧
    frameCheck 64 ⟨frameF ++ [0x99], 6, 6⟩ = .drop ∧
    frameCheck 64 ⟨frameF ++ [0x99], 5, 6⟩ = .accept 0x42 [0x1F, 0x90] ∧ frameCheck 3 ⟨frameF, 5, 5⟩ = .drop := by
  decide
theorem test_F10_to_F12 : frameCheck 3 ⟨[0x42, 0x00, 0x42], 3, 3⟩ = .accept 0x42 [] ∧
    frameCheck 64 ⟨[0x42, 0x1F, 0x90, 0xF1, 0x00], 5, 5⟩ = .drop ∧ frameCheck 64 ⟨[0x42], 1, 2⟩ = .refused := by decide
theorem test_X1 : outOf .rdRsvd18 (lctState enabled) = some (.readData 0) ∧
    outOf .rdRsvd7C (lctState enabled) = some (.readData 0) := by decide
theorem test_X2 : runOp (.wrRsvd34 0xFFFFFFFF) State.reset = some (.nothing, State.reset) := by decide
theorem test_X3_to_X5 : fetchAccess 0x1000 ⟨.read, 0x1008, .bits8, 0⟩ = .refuse .accessOutsideInterface ∧
    fetchAccess 0x1000 ⟨.read, 0x1006, .bits32, 0⟩ = .refuse .accessOutsideInterface ∧
    fetchAccess 0x1000 ⟨.read, 0x1080, .bits32, 0⟩ = .refuse .accessOutsideInterface := by decide

/-! ## States that meet the hypotheses of the obligations -/

/-- A transport within a word: three bits exchanged, 0x28000000 still to send (vector P-2). -/
def withinWord : Lct := { enabled with bitcnt := 3, txsr := 0x28000000, rxsr := 1 }

/-- A transport one pulse from the end of a word, with an unread word. -/
def lastBit : Lct := { enabled with ie := true, rxv := true, bitcnt := 7, rxsr := 0x1E, rxbuf := 0x11 }

/-- A machine with a pending word 0xA5 at a word start. -/
def pending : State := lctState { enabled with txp := true, txbuf := 0xA5000000 }

/-- A machine whose interrupt request is asserted. -/
def requesting : State := lctState { enabled with ie := true, rxv := true, rxbuf := 0x3C }

theorem witness_StepRunsTheDecodedOperation :
    decode { format := .a, bytes := [0x24, 0x01, 0xFF, 0, 0, 0] } = .ok (.wrCkData 0xFF) ∧
    (Instr.wrCkData 0xFF).wellFormed = true := ⟨rfl, rfl⟩

theorem witness_AlignedWordAccess : (0 % 4 = 0 ∧ 0 ≤ 0x7C) ∧ (0x7C % 4 = 0 ∧ 0x7C ≤ 0x7C) := by decide

/-- One access for each way to leave the interface; a window at address 0 has nothing below it. -/
theorem witness_AccessOutsideInterface :
    AccessWidth.bits8 ≠ .bits32 ∧ AccessWidth.bits16 ≠ .bits32 ∧
    (Config.blockBase - 1 < Config.blockBase ∨ Config.blockBase = 0) ∧
    Config.blockBase + 128 ≤ Config.blockBase + 128 ∧ (Config.blockBase + 0x7E - Config.blockBase) % 4 ≠ 0 := by
  refine ⟨by decide, by decide, by omega, le_refl _, ?_⟩
  rw [Nat.add_sub_cancel_left]
  decide

theorem witness_RunInsideInterface :
    State.staysInside
      { State.reset with inputs := [.powerOn, .encoded (pulsePacket true), .encoded (readPacket 0x7C)] } = true := by
  decide

theorem witness_EveryDecodedPacket :
    decode { format := .a, bytes := [0x48, 0x01, 0xC0, 0xA8, 0x01, 0x02] } = .ok (.wrAdHost0 0x0201A8C0) := rfl

theorem witness_Alignment : (Lct.reset.w32 = false ∧ 23 < 32 - Lct.reset.width) ∧
    ({ Lct.reset with w32 := true } : Lct).w32 = true := by decide

theorem witness_PulseExchangesOneBit : (lctState withinWord).lct.en = true ∧ pending.lct.en = true ∧
    (lctState lastBit).lct.en = true := by decide

theorem witness_PulseWhileDisabled : State.reset.lct.en = false := rfl

theorem witness_WholeWord :
    pending.lct.en = true ∧ pending.lct.bitcnt = 0 ∧ pending.lct.txp = true ∧
    pending.lct.txbuf = align pending.lct.width 0xA5 ∧
    (∀ i ∈ [Instr.pulse true, .rdLctRxdata, .pulse false, .wrLctTxdata 7, .pulse true, .wrCkData 1, .pulse true,
        .pulse false, .pulse false], ∀ v : Word,
      i ≠ .rdLctCtrl ∧ i ≠ .rdLctReset ∧ i ≠ .rdLctClear ∧ i ≠ .wrLctCtrl v ∧ i ≠ .wrLctReset v ∧ i ≠ .wrLctClear v) ∧
    (pulseBits (.pulse false :: [Instr.pulse true, .rdLctRxdata, .pulse false, .wrLctTxdata 7, .pulse true, .wrCkData 1,
        .pulse true, .pulse false, .pulse false] ++ [.pulse true])).length = pending.lct.width := by
  refine ⟨rfl, rfl, rfl, by decide, ?_, rfl⟩
  intro i hi v
  fin_cases hi <;> simp

theorem witness_Underrun : (lctState enabled).lct.en = true ∧ (lctState enabled).lct.bitcnt = 0 ∧
    (lctState enabled).lct.txp = false ∧ (List.replicate 8 true).length = (lctState enabled).lct.width := by decide

/-- The write in the middle of word n, and (with `pre` the whole word) after its last pulse. -/
theorem witness_SendGoesOut :
    let s := lctState enabled
    let pre : List Instr := .rdLctStatus :: List.replicate 3 (.pulse true)
    let post : List Instr := .rdLctRxdata :: List.replicate 5 (.pulse false)
    let next : List Instr := .wrCkData 1 :: List.replicate 8 (.pulse true)
    s.lct.en = true ∧ s.lct.bitcnt = 0 ∧
    (∀ i ∈ pre ++ post ++ next, ∀ v : Word,
      i ≠ .wrLctTxdata v ∧ i ≠ .wrLctCtrl v ∧ i ≠ .wrLctReset v ∧ i ≠ .wrLctClear v) ∧
    1 ≤ (pulseBits pre).length ∧ (pulseBits pre).length + (pulseBits post).length = s.lct.width ∧
    (pulseBits next).length = s.lct.width ∧
    1 ≤ (pulseBits next).length ∧ (pulseBits next).length + (pulseBits []).length = s.lct.width := by
  refine ⟨rfl, rfl, ?_, by decide, by decide, by decide, by decide, by decide⟩
  intro i hi v
  fin_cases hi <;> simp

theorem witness_Overrun : (lctState lastBit).lct.en = true ∧
    (lctState lastBit).lct.bitcnt.toNat = (lctState lastBit).lct.width - 1 ∧ (lctState lastBit).lct.rxv = true := by decide

/-- A step within a word, from a state that meets the invariants, TXSR's among them. -/
theorem witness_EveryStepKeepsTheInvariant :
    let s : State := { lctState withinWord with inputs := [.encoded (pulsePacket true)] }
    s.Inv ∧ s.lct.txsrDrained ∧ ∃ t, step s = .next t :=
  ⟨by decide, by decide, exec_completes (.pulse true) (lctState withinWord)⟩

/-- Clause 1, for each of the four events that clear the received word. -/
theorem witness_ClearedWord_clears :
    ∀ e ∈ [Input.powerOn, .encoded (writePacket 0x10 0), .encoded (writePacket 0x14 0), .encoded (writePacket 0x00 2)],
      let s : State := { requesting with inputs := [e] }
      s.inputs = [e] ∧ (∃ t, step s = .next t) ∧ clearsBuffers (fetch e) s = true := by
  intro e he
  fin_cases he <;> exact ⟨rfl, ⟨_, rfl⟩, by decide⟩

/-- Clause 2, over one step of a pulse that completes no word. -/
theorem witness_ClearedWord_stays :
    let s : State := { lctState withinWord with inputs := [.encoded (pulsePacket true)] }
    s.lct.rxv = false ∧ (∃ t, core.run 1 s = .next t) ∧
    ∀ (k : Nat) (u : State) (e : Input) (rest : List Input), k < 1 → core.run k s = .next u →
      u.inputs = e :: rest → completesWord (fetch e) u = false := by
  intro s
  obtain ⟨t, ht⟩ : ∃ t, step s = .next t := exec_completes (.pulse true) (lctState withinWord)
  refine ⟨rfl, ⟨t, by rw [core_run_succ ht]; rfl⟩, ?_⟩
  intro k u e rest hk hu hi
  obtain rfl : k = 0 := by omega
  injection hu with hu
  subst hu
  injection hi with h1 _
  subst h1
  decide

theorem witness_WidthChanges :
    let s : State := { lctState withinWord with inputs := [.encoded (writePacket 0x00 3)] }
    s.Inv ∧ ∃ t, step s = .next t ∧ t.lct.w32 ≠ s.lct.w32 :=
  ⟨by decide, _, rfl, by decide⟩

/-- Each clause of the rule about BITCNT, RXV and TXP has an operation it speaks of. -/
theorem witness_TransportFlags :
    (∃ t, exec (.wrLctReset 0) (lctState withinWord) = .next t ∧ t.lct.bitcnt ≠ withinWord.bitcnt) ∧
    (∃ t, exec (.pulse false) (lctState { lastBit with rxv := false }) = .next t ∧ t.lct.rxv = true) ∧
    (∃ t, exec .rdLctRxdata (lctState { lastBit with ie := false }) = .next t ∧ lastBit.rxv = true ∧
      t.lct.rxv = false) ∧
    (∃ t, exec (.wrLctTxdata 1) State.reset = .next t ∧ State.reset.lct.txp = false ∧ t.lct.txp = true) ∧
    (∃ t, exec (.wrLctClear 0) pending = .next t ∧ pending.lct.txp = true ∧ t.lct.txp = false) :=
  ⟨⟨_, rfl, by decide⟩, ⟨_, rfl, by decide⟩, ⟨_, rfl, rfl, rfl⟩, ⟨_, rfl, rfl, rfl⟩, ⟨_, rfl, rfl, rfl⟩⟩

/-- T17: IRQ rises at a write of IE = 1; and it falls at a read of LCT_RXDATA. -/
theorem witness_InterruptRequest :
    (∃ t, exec (.wrLctCtrl 5) (lctState { enabled with rxv := true }) = .next t ∧
      (lctState { enabled with rxv := true }).irq = false ∧ t.irq = true) ∧
    (∃ t, exec .rdLctRxdata requesting = .next t ∧ requesting.irq = true ∧ t.irq = false) :=
  ⟨⟨_, rfl, rfl, by decide⟩, ⟨_, rfl, rfl, rfl⟩⟩

theorem witness_RequestStays : requesting.irq = true ∧ (∃ t, exec .rdLctStatus requesting = .next t) ∧
    ∃ t, exec (.wrLctClear 0) requesting = .next t := ⟨rfl, ⟨_, rfl⟩, ⟨_, rfl⟩⟩

theorem witness_SubBlocks : (∃ t, exec (.wrLctCtrl 1) State.reset = .next t) ∧
    (Instr.wrLctCtrl 1).subBlock ≠ .cas ∧ (∃ t, exec (.wrCkData 1) State.reset = .next t) ∧
    (Instr.wrCkData 1).subBlock ≠ .lct ∧ (Instr.rdRsvd18).subBlock ≠ .cas ∧ (Instr.rdRsvd18).subBlock ≠ .lct :=
  ⟨⟨_, rfl⟩, by decide, ⟨_, rfl⟩, by decide, by decide, by decide⟩

theorem witness_AccessesAreIdempotent :
    (decode (readPacket 0x7C) = .ok .rdRsvd7C ∧ Instr.rdRsvd7C ≠ .rdLctRxdata) ∧
    (decode (writePacket 0x00 3) = .ok (.wrLctCtrl 3) ∧ Instr.wrLctCtrl 3 ≠ .wrCkData 3 ∧
      ∃ t, exec (.wrLctCtrl 3) State.reset = .next t) ∧
    (∃ t u, exec (.wrCkData 0xFF) State.reset = .next t ∧ exec (.wrCkData 0xFF) t = .next u) :=
  ⟨⟨rfl, by decide⟩, ⟨rfl, by decide, _, rfl⟩, ⟨_, _, rfl, rfl⟩⟩

/-- Between the accesses of a checksum: a pulse, a read of CK_DATA, a write of the transport. -/
theorem witness_ChecksumProcedure :
    let ops : List Instr := [.wrCkData 1, .pulse true, .rdCkData, .wrCkData 0x102, .wrLctTxdata 5, .wrCkData 3]
    (∀ i ∈ ops, ∀ v : Word, i ≠ .wrCkClear v) ∧ fedBytes ops = [1, 2, 3] := by
  refine ⟨?_, by decide⟩
  intro i hi v
  fin_cases hi <;> simp

/-- The trailer of S3, and sequences for the two orders of CK_EXPECT and CK_CLEAR. -/
theorem witness_VerifyTrailer :
    let p : List Instr := [.wrCkData 1, .pulse true, .wrLctTxdata 5]
    let q : List Instr := [.rdLctRxdata, .wrCkData 2, .wrCkData 3]
    appendChecksum [1, 2, 3] = [0x00, 0x06] ∧ (∀ i ∈ p ++ q, ∀ v : Word, i ≠ .wrCkClear v) ∧
    (∀ i ∈ p ++ q, ∀ v : Word, i ≠ .wrCkExpect v) ∧ (∀ i ∈ q, ∀ v : Word, i ≠ .wrCkClear v) ∧
    ∀ i ∈ q, ∀ v : Word, i ≠ .wrCkExpect v := by
  refine ⟨by decide, ?_, ?_, ?_, ?_⟩ <;>
  · intro i hi v
    fin_cases hi <;> simp

theorem witness_ChecksumWraps : (List.replicate 257 (0xFF : Byte)).length < 258 := by
  rw [List.length_replicate]
  decide

theorem witness_ChecksumAlgebra : ([0x1F, 0x90] : List Byte).Perm [0x90, 0x1F] := List.Perm.swap _ _ _

theorem witness_SingleBitError : verify [1, 2, 3] [0x00, 0x06] = true ∧ 2 < ([1, 2, 3] : List Byte).length := by decide

theorem witness_EncodedAddress : Config.Tags.default.distinct = true ∧ Cas.reset.type ≠ 3 ∧
    ({ Cas.reset with type := 2 } : Cas).type ≠ 3 ∧
    ∀ i ∈ [Instr.rdAdLen, .pulse true, .rdLctRxdata],
      (∃ off, decode (readPacket off) = .ok i) ∨ ∃ si, i = .pulse si := by
  refine ⟨by decide, by decide, by decide, ?_⟩
  intro i hi
  fin_cases hi
  · exact .inl ⟨0x58, rfl⟩
  · exact .inr ⟨true, rfl⟩
  · exact .inl ⟨0x08, rfl⟩

theorem witness_DecodeRejects : Config.Tags.default.distinct = true ∧ (0x03 : Byte) ≠ Config.Tags.default.none ∧
    (0x03 : Byte) ≠ Config.Tags.default.ipv4 ∧ (0x03 : Byte) ≠ Config.Tags.default.ipv6 := by decide

theorem witness_Polling :
    (∃ w t, procWaitRx [[]] requesting = some (w, t)) ∧ requesting.lct.rxv = true ∧
    ((lctState enabled).lct.en = true ∧ (lctState enabled).lct.bitcnt = 0 ∧
      (List.replicate 8 true).length = (lctState enabled).lct.width) :=
  ⟨⟨_, _, rfl⟩, rfl, by decide⟩

end Sys2Proof.Tests
end

/-! PROOF. The statements of 00_scope.md: what the two sub-blocks keep apart (R2), and why a run inside the interface
goes on and keeps the invariants of R40 (R9, R200). -/

namespace Sys2Proof.Machine

/-! ### Which sub-block an operation writes, and which it reads (R2, R22) -/

/-- An operation outside CAS changes nothing of CAS (R2). -/
theorem casAfter_of_subBlock_ne {i : Instr} (h : i.subBlock ≠ .cas) (c : Cas) : casAfter i c = c := by
  cases i with
  | wrCkClear | wrCkData | wrCkExpect | wrAdType | wrAdPort | wrAdHost0 | wrAdHost1 | wrAdHost2 | wrAdHost3
  | wrAdLen | wrAdBuf0 | wrAdBuf1 | wrAdBuf2 | wrAdBuf3 | wrAdBuf4 | wrAdEncode | wrAdDecode => exact absurd rfl h
  | _ => rfl

/-- An operation outside LCT changes nothing of LCT (R2). -/
theorem lctAfter_of_subBlock_ne {i : Instr} (h : i.subBlock ≠ .lct) (s : State) : lctAfter i s = s.lct := by
  cases i with
  | rdLctRxdata | wrLctCtrl | wrLctTxdata | wrLctReset | wrLctClear | pulse => exact absurd rfl h
  | _ => rfl

/-- An operation outside LCT draws no free value: only a pulse does (R121, R123). -/
theorem drawsAfter_of_subBlock_ne {i : Instr} (h : i.subBlock ≠ .lct) (s : State) : drawsAfter i s = s.draws := by
  cases i with
  | pulse => exact absurd rfl h
  | _ => rfl

/-- What becomes of LCT does not depend on CAS. -/
@[simp] theorem lctAfter_setCas (i : Instr) (s : State) (c : Cas) : lctAfter i (s.setCas c) = lctAfter i s := rfl

/-- The values drawn do not depend on CAS. -/
@[simp] theorem drawsAfter_setCas (i : Instr) (s : State) (c : Cas) : drawsAfter i (s.setCas c) = drawsAfter i s := rfl

/-- The answer of an operation outside CAS does not depend on CAS (R2): only the reads of CAS look at it. -/
theorem outAfter_setCas {i : Instr} (h : i.subBlock ≠ .cas) (s : State) (c : Cas) :
    outAfter i (s.setCas c) = outAfter i s := by
  cases i with
  | rdCkSum | rdCkExpect | rdCkStatus | rdAdType | rdAdPort | rdAdHost0 | rdAdHost1 | rdAdHost2 | rdAdHost3
  | rdAdLen | rdAdResult | rdAdBuf0 | rdAdBuf1 | rdAdBuf2 | rdAdBuf3 | rdAdBuf4 => exact absurd rfl h
  | _ => rfl

/-- The answer of an operation outside LCT depends neither on LCT nor on the draw counter (R2): only three reads of LCT
and the pulse look at them. -/
theorem outAfter_setLct_setDraws {i : Instr} (h : i.subBlock ≠ .lct) (s : State) (l : Lct) (n : Nat) :
    outAfter i ((s.setLct l).setDraws n) = outAfter i s := by
  cases i with
  | rdLctCtrl | rdLctStatus | rdLctRxdata | pulse => exact absurd rfl h
  | _ => rfl

/-- The next state of an operation is the one `exec_eq` gives. -/
theorem eq_of_exec {i : Instr} {s t : State} (h : exec i s = .next t) :
    t = { lct := lctAfter i s, cas := casAfter i s.cas, out := outAfter i s, draws := drawsAfter i s
          inputs := s.inputs } := by
  rw [exec_eq] at h
  injection h with h
  exact h.symm

/-- An operation outside CAS runs the same beside any other state of CAS (R2). -/
theorem exec_setCas {i : Instr} {s t : State} (h : exec i s = .next t) (hi : i.subBlock ≠ .cas) (c : Cas) :
    exec i (s.setCas c) = .next (t.setCas c) := by
  rw [eq_of_exec h, exec_eq, lctAfter_setCas, drawsAfter_setCas, outAfter_setCas hi, casAfter_of_subBlock_ne hi]
  rfl

/-- An operation outside LCT runs the same beside any other state of LCT and any other draw counter (R2). -/
theorem exec_setLct_setDraws {i : Instr} {s t : State} (h : exec i s = .next t) (hi : i.subBlock ≠ .lct) (l : Lct)
    (n : Nat) : exec i ((s.setLct l).setDraws n) = .next ((t.setLct l).setDraws n) := by
  rw [eq_of_exec h, exec_eq, lctAfter_of_subBlock_ne hi, drawsAfter_of_subBlock_ne hi,
    outAfter_setLct_setDraws hi]
  rfl

/-- Settles O36: each sub-block's operations leave the other's fields alone and read none of them. -/
theorem subBlocksHaveNoStateInCommon : Obligations.SubBlocksHaveNoStateInCommon := by
  refine ⟨fun i s t h hi => ?_, fun i s t h hi => ?_, fun i s t c h hi => ?_, fun i s t l n h hi => ?_⟩
  · exact (cas_draws_of_exec h).1.trans (casAfter_of_subBlock_ne hi s.cas)
  · exact ⟨(lct_of_exec h).trans (lctAfter_of_subBlock_ne hi s),
      (cas_draws_of_exec h).2.trans (drawsAfter_of_subBlock_ne hi s)⟩
  · exact exec_setCas h hi c
  · exact exec_setLct_setDraws h hi l n

/-! ### The invariants of R40 -/

/-- With the buffers dropped only the bit counter is left to speak of (R40). -/
theorem Lct.inv_of_dropped {l : Lct} (hb : l.bitcntInRange) (hr : l.rxbuf = 0) (ht : l.txp = false) : l.Inv :=
  ⟨hb, by simp [Lct.rxbufInWidth, hr], by simp [Lct.txbufAligned, ht]⟩

/-- At a word's start the bit counter is in range, for either width (R40). -/
theorem Lct.bitcntInRange_of_zero {l : Lct} (h : l.bitcnt = 0) : l.bitcntInRange := by
  rw [Lct.bitcntInRange, h]
  exact Nat.lt_of_lt_of_le (by decide : (0 : BitVec 5).toNat < 8) l.width_pos

/-- The reset state meets the invariants of R40 (R41). -/
theorem Lct.inv_reset : Lct.reset.Inv := Lct.inv_of_dropped (Lct.bitcntInRange_of_zero rfl) rfl rfl

/-- LCT_CLEAR keeps the invariants of R40 (R105). -/
theorem Lct.inv_clearBuffers {l : Lct} (h : l.Inv) : l.clearBuffers.Inv := Lct.inv_of_dropped h.1 rfl rfl

/-- LCT_RESET establishes the invariants of R40 (R104). -/
theorem Lct.inv_transportReset (l : Lct) : l.transportReset.Inv :=
  Lct.inv_of_dropped (Lct.bitcntInRange_of_zero rfl) rfl rfl

/-- A write of LCT_CTRL keeps the invariants of R40: one that changes the width clears framing and buffers (R103). -/
theorem Lct.inv_writeCtrl {l : Lct} (h : l.Inv) (v : Word) : (l.writeCtrl v).Inv := by
  by_cases hw : w32Field v = l.w32
  · rw [Lct.writeCtrl_same hw, hw]
    exact h
  · rw [Lct.writeCtrl_change hw]
    exact Lct.inv_of_dropped (Lct.bitcntInRange_of_zero rfl) rfl rfl

/-- An aligned word has only zeros below its lowest bit (R106). -/
theorem align_and_mask {w : Nat} (hw : w ≤ 32) (v : Word) : align w v &&& mask (32 - w) = 0 := by
  apply BitVec.eq_of_getLsbD_eq
  intro i _
  rw [BitVec.getLsbD_and, getLsbD_align _ _ _ hw, getLsbD_mask _ _ (by omega)]
  by_cases h : i < 32 - w
  · simp [show ¬ 32 - w ≤ i by omega]
  · simp [h]

/-- A write of LCT_TXDATA keeps the invariants of R40: the word it stores is aligned (R102). -/
theorem Lct.inv_sendWord {l : Lct} (h : l.Inv) (v : Word) : (l.sendWord v).Inv := by
  obtain ⟨hbit, hrx, _⟩ := h
  exact ⟨hbit, hrx, fun _ => align_and_mask l.width_le v⟩

/-- One exchange keeps the invariants of R40 (R120): the counter restarts at the word's last bit, the word received is
masked to the width, and no word becomes pending. -/
theorem Lct.inv_exchange {l : Lct} (h : l.Inv) (idle : Word) (si : Bool) : (l.exchange idle si).Inv := by
  obtain ⟨hbit, hrx, htx⟩ := h
  have htx' : (l.txp && !l.startsWord) = true → l.txbuf &&& mask (32 - l.width) = 0 :=
    fun hp => htx (Bool.and_eq_true_iff.mp hp).1
  cases he : l.endsWord with
  | true =>
    rw [Lct.exchange_ends idle si he]
    refine ⟨Lct.bitcntInRange_of_zero rfl, ?_, htx'⟩
    change l.shiftedIn si &&& mask l.width &&& ~~~mask l.width = 0
    rw [BitVec.and_assoc, BitVec.and_not_self]
    exact BitVec.and_zero
  | false =>
    rw [Lct.exchange_within idle si he]
    refine ⟨?_, hrx, htx'⟩
    have hne : l.bitcnt.toNat ≠ l.width - 1 := by simpa [Lct.endsWord] using he
    have hle := l.width_le
    change (l.bitcnt + 1).toNat < l.width
    bv_omega

/-- Every operation keeps the invariants of R40. -/
theorem Lct.inv_lctAfter {s : State} (h : s.lct.Inv) (i : Instr) : (lctAfter i s).Inv := by
  cases i with
  | wrLctCtrl v => exact Lct.inv_writeCtrl h v
  | wrLctTxdata v => exact Lct.inv_sendWord h v
  | wrLctReset v => exact Lct.inv_transportReset s.lct
  | wrLctClear v => exact Lct.inv_clearBuffers h
  | pulse si =>
    cases hen : s.lct.en with
    | true => rw [lctAfter_pulse_enabled si hen]; exact Lct.inv_exchange h _ si
    | false => rw [lctAfter_pulse_disabled si hen]; exact h
  | _ => exact h

/-- Every step that answers keeps the invariants of R40. -/
theorem State.inv_of_step {s t : State} (h : step s = .next t) (hs : s.Inv) : t.Inv := by
  obtain ⟨_, rfl⟩ | ⟨_, rest, i, _, _, hx⟩ | ⟨_, _, _, _, rfl⟩ := step_cases h
  · exact hs
  · rw [State.Inv, lct_of_exec hx]
    exact Lct.inv_lctAfter (s := s.setInputs rest) hs i
  · exact Lct.inv_reset

/-! ### A run inside the interface -/

/-- An event inside the interface asks for an operation or for the power-on reset. -/
theorem fetch_of_inputInside {e : Input} (h : inputInside e = true) :
    (∃ i, fetch e = .operation i) ∨ fetch e = .powerOn := by
  cases hf : fetch e with
  | operation i => exact .inl ⟨i, rfl⟩
  | powerOn => exact .inr rfl
  | refuse r => simp [inputInside, hf] at h

/-- A step with its oldest event inside the interface, or with none, has a next state and takes that event (R9). -/
theorem step_completes_of_staysInside {s : State} (h : s.staysInside = true) :
    ∃ t, step s = .next t ∧ t.inputs = s.inputs.tail := by
  cases hs : s.inputs with
  | nil => exact ⟨s, by simp [step, hs], hs⟩
  | cons e rest =>
    have he : inputInside e = true := by
      rw [State.staysInside, hs, List.all_cons, Bool.and_eq_true] at h
      exact h.1
    obtain ⟨i, hf⟩ | hf := fetch_of_inputInside he
    · obtain ⟨t, ht⟩ := exec_completes i (s.setInputs rest)
      exact ⟨t, (step_operation hs hf).trans ht, inputs_of_exec ht⟩
    · exact ⟨_, step_powerOn hs hf, rfl⟩

/-- The events left after the oldest one are inside the interface too. -/
theorem staysInside_of_inputs_tail {s t : State} (h : s.staysInside = true) (ht : t.inputs = s.inputs.tail) :
    t.staysInside = true := by
  rw [State.staysInside, List.all_eq_true] at h ⊢
  exact fun e he => h e (List.mem_of_mem_tail (ht ▸ he))

/-- Settles O7, by induction on the number of steps: each step has a next state, takes one event and keeps R40. -/
theorem runInsideInterfaceNeverStops : Obligations.RunInsideInterfaceNeverStops := by
  intro s n h
  induction n generalizing s with
  | zero => exact ⟨s, rfl, rfl, id⟩
  | succ n ih =>
    obtain ⟨u, hstep, hu⟩ := step_completes_of_staysInside h
    obtain ⟨t, hrun, ht, hinv⟩ := ih u (staysInside_of_inputs_tail h hu)
    refine ⟨t, (core_run_succ hstep n).trans hrun, ?_, fun hs => hinv (State.inv_of_step hstep hs)⟩
    rw [ht, hu, List.drop_tail]

end Sys2Proof.Machine

/-! PROOF. The statements of 10_state.md: the reset values (R41) and the invariants of R40, the one-state clauses and
the one that speaks of a run. -/

namespace Sys2Proof.Machine

/-! ### The received word (R40's last clause) -/

/-- An operation that clears the received word leaves none and an empty RXBUF (R103, R104, R105). -/
theorem lctAfter_rx_of_clearsBuffers {i : Instr} {s : State} (h : clearsBuffers (.operation i) s = true) :
    (lctAfter i s).rxv = false ∧ (lctAfter i s).rxbuf = 0 := by
  cases i with
  | wrLctCtrl v =>
    have hw : w32Field v ≠ s.lct.w32 := bne_iff_ne.mp h
    change (s.lct.writeCtrl v).rxv = false ∧ (s.lct.writeCtrl v).rxbuf = 0
    rw [Lct.writeCtrl_change hw]
    exact ⟨rfl, rfl⟩
  | wrLctReset | wrLctClear => exact ⟨rfl, rfl⟩
  | _ => exact absurd h Bool.false_ne_true

/-- A write of LCT_CTRL never makes a word received (R103). -/
theorem Lct.writeCtrl_rxv {l : Lct} (h : l.rxv = false) (v : Word) : (l.writeCtrl v).rxv = false := by
  by_cases hw : w32Field v = l.w32
  · rw [Lct.writeCtrl_same hw]
    exact h
  · rw [Lct.writeCtrl_change hw]
    rfl

/-- An operation that completes no word makes none received (R122): only the last pulse of a word sets RXV. -/
theorem lctAfter_rxv_of_not_completesWord {i : Instr} {s : State} (h : completesWord (.operation i) s = false)
    (hs : s.lct.rxv = false) : (lctAfter i s).rxv = false := by
  cases i with
  | rdLctRxdata | wrLctReset | wrLctClear => rfl
  | wrLctCtrl v => exact Lct.writeCtrl_rxv hs v
  | pulse si =>
    cases hen : s.lct.en with
    | true =>
      have hw : s.lct.endsWord = false := by simpa [completesWord, hen] using h
      rw [lctAfter_pulse_enabled si hen, Lct.exchange_within _ si hw]
      exact hs
    | false => rw [lctAfter_pulse_disabled si hen]; exact hs
  | _ => exact hs

/-- A step that clears the received word leaves RXV = 0 and RXBUF = 0 (R40, R221). -/
theorem rx_cleared_of_step {s t : State} {e : Input} {rest : List Input} (hs : s.inputs = e :: rest)
    (h : step s = .next t) (hc : clearsBuffers (fetch e) s = true) : t.lct.rxv = false ∧ t.lct.rxbuf = 0 := by
  obtain ⟨hnil, _⟩ | ⟨e', rest', i, hs', hf, hx⟩ | ⟨_, _, _, _, rfl⟩ := step_cases h
  · rw [hs] at hnil
    cases hnil
  · obtain ⟨rfl, rfl⟩ := List.cons.inj (hs.symm.trans hs')
    rw [hf] at hc
    rw [lct_of_exec hx]
    exact lctAfter_rx_of_clearsBuffers (s := s.setInputs rest) hc
  · exact ⟨rfl, rfl⟩

/-- A step whose event, if there is one, completes no word leaves RXV = 0 as it was (R40, R122). -/
theorem rxv_false_of_step {s t : State} (h : step s = .next t) (hs : s.lct.rxv = false)
    (hn : ∀ e rest, s.inputs = e :: rest → completesWord (fetch e) s = false) : t.lct.rxv = false := by
  obtain ⟨_, rfl⟩ | ⟨e, rest, i, hin, hf, hx⟩ | ⟨_, _, _, _, rfl⟩ := step_cases h
  · exact hs
  · have hi : completesWord (.operation i) s = false := hf ▸ hn e rest hin
    rw [lct_of_exec hx]
    exact lctAfter_rxv_of_not_completesWord (s := s.setInputs rest) hi hs
  · rfl

/-- A run of one more step that has an end state takes that step and goes on from there. -/
theorem step_of_core_run_succ {n : Nat} {s t : State} (h : core.run (n + 1) s = .next t) :
    ∃ u, step s = .next u ∧ core.run n u = .next t := by
  cases hstep : step s with
  | next u => exact ⟨u, rfl, (core_run_succ hstep n).symm.trans h⟩
  | fault r => cases r
  | refused r =>
    have hstep' : core.step s = .refused r := hstep
    simp [Host.Core.run, hstep'] at h

/-- RXV stays 0 along a run in which no word completes (R40's last clause), by induction on the number of steps. -/
theorem rxv_false_of_core_run {n : Nat} {s t : State} (hs : s.lct.rxv = false) (h : core.run n s = .next t)
    (hn : ∀ (k : Nat) (u : State) (e : Input) (rest : List Input), k < n → core.run k s = .next u →
      u.inputs = e :: rest → completesWord (fetch e) u = false) : t.lct.rxv = false := by
  induction n generalizing s with
  | zero =>
    injection h with h
    exact h ▸ hs
  | succ n ih =>
    obtain ⟨u, hstep, hrun⟩ := step_of_core_run_succ h
    have hu : u.lct.rxv = false :=
      rxv_false_of_step hstep hs fun e rest => hn 0 s e rest n.succ_pos rfl
    refine ih hu hrun fun k v e rest hk hv => hn (k + 1) v e rest (Nat.succ_lt_succ hk) ?_
    exact (core_run_succ hstep k).trans hv

/-! ### The statements -/

/-- Settles O29: an event's operation keeps the invariants, and the power-on reset establishes them. -/
theorem everyStepKeepsTheInvariant : Obligations.EveryStepKeepsTheInvariant :=
  fun _ _ hs h => State.inv_of_step h hs

/-- Settles O31: the step that clears, then the run without a completed word. -/
theorem clearedWordStaysUnreadUntilCompletion : Obligations.ClearedWordStaysUnreadUntilCompletion :=
  ⟨fun _ _ _ _ hs h hc => rx_cleared_of_step hs h hc, fun _ _ _ hs h hn => rxv_false_of_core_run hs h hn⟩

/-- Settles O1: the scalar fields as the reset state writes them, the byte arrays index by index. -/
theorem resetStateHasEveryFieldZero : Obligations.ResetStateHasEveryFieldZero :=
  ⟨rfl, rfl, rfl, rfl, rfl, rfl, rfl, fun _ h => Vector.getElem_replicate h, fun _ h => Vector.getElem_replicate h,
    rfl, rfl⟩

/-- Settles O28: at reset the counter is 0 and no word is received or pending. -/
theorem invariantHoldsAfterReset : Obligations.InvariantHoldsAfterReset := Lct.inv_reset

end Sys2Proof.Machine

/-! PROOF. The statements of 20_memory.md: host accesses as operations (R51 to R53), their repetition (R54), and the
order of events (R55, R59). -/

namespace Sys2Proof.Machine

/-! ### Packets and the operations they stand for (R70, R71, R79) -/

/-- A read's packet decodes as the register at its offset is read (R70, R79). -/
theorem decode_readPacket_iff {off : Byte} {i : Instr} :
    decode (readPacket off) = .ok i ↔ readInstr off = some i := by
  cases h : readInstr off <;> simp [decode, readPacket, decodeFormatA, h]

/-- A write's packet decodes as the register at its offset is written with its operand (R70, R79). -/
theorem decode_writePacket_iff {off : Byte} {v : Word} {i : Instr} :
    decode (writePacket off v) = .ok i ↔ writeInstr off v = some i := by
  cases h : writeInstr off v <;> simp [decode, writePacket, bytesOfWord, decodeFormatA, h]

/-- The read at an offset is encoded with that offset (R79). -/
theorem encode_of_readInstr {off : Byte} {i : Instr} (h : readInstr off = some i) : encode i = readPacket off := by
  unfold readInstr at h
  split at h
  case h_33 => cases h
  all_goals
    next hoff =>
      obtain rfl := Option.some.inj h
      exact congrArg readPacket (BitVec.eq_of_toNat_eq hoff.symm)

/-- The write at an offset is encoded with that offset and its operand (R79). -/
theorem encode_of_writeInstr {off : Byte} {v : Word} {i : Instr} (h : writeInstr off v = some i) :
    encode i = writePacket off v := by
  unfold writeInstr at h
  split at h
  case h_33 => cases h
  all_goals
    next hoff =>
      obtain rfl := Option.some.inj h
      exact congrArg (writePacket · v) (BitVec.eq_of_toNat_eq hoff.symm)

/-- A write's packet carries four bytes more than a read's. -/
theorem writePacket_ne_readPacket (off off' : Byte) (v : Word) : writePacket off v ≠ readPacket off' := by
  simp [writePacket, readPacket, bytesOfWord]

/-- A pulse and a read differ in their format. -/
theorem pulsePacket_ne_readPacket (si : Bool) (off : Byte) : pulsePacket si ≠ readPacket off := by
  simp [pulsePacket, readPacket]

/-- A pulse and a write differ in their format. -/
theorem pulsePacket_ne_writePacket (si : Bool) (off : Byte) (v : Word) : pulsePacket si ≠ writePacket off v := by
  simp [pulsePacket, writePacket]

/-- The operand is part of a write's packet. -/
theorem writePacket_operand_inj {off off' : Byte} {v w : Word} (h : writePacket off v = writePacket off' w) :
    v = w := by
  simp only [writePacket, bytesOfWord, Packet.mk.injEq, List.cons.injEq, true_and, and_true] at h
  obtain ⟨-, h0, h1, h2, h3⟩ := h
  rw [← wordOfBytes_bytesOfWord v, h0, h1, h2, h3, wordOfBytes_bytesOfWord]

/-- `OFF` of an operation's descriptor, its packet's first byte (R70). -/
def offsetOf (i : Instr) : Byte := (encode i).bytes.headD 0

/-- The three kinds of operation (R70, R71, R79): a read, which but for LCT_RXDATA changes only the answer (R54); a
write, which answers nothing (R9); and a pulse. -/
theorem read_write_or_pulse (i : Instr) :
    (readInstr (offsetOf i) = some i ∧
      (i = .rdLctRxdata ∨ ∀ s, ∃ v, exec i s = .next (s.setOut (.readData v)))) ∨
    ((∃ v, writeInstr (offsetOf i) v = some i) ∧ ∀ s, outAfter i s = .nothing) ∨
    ∃ si, i = .pulse si := by
  cases i with
  | pulse si => exact .inr (.inr ⟨si, rfl⟩)
  | rdLctRxdata => exact .inl ⟨rfl, .inl rfl⟩
  | rdLctCtrl | rdLctStatus | rdLctTxdata | rdLctReset | rdLctClear | rdRsvd18 | rdRsvd1C | rdCkClear | rdCkData
  | rdCkSum | rdCkExpect | rdCkStatus | rdRsvd34 | rdRsvd38 | rdRsvd3C | rdAdType | rdAdPort | rdAdHost0 | rdAdHost1
  | rdAdHost2 | rdAdHost3 | rdAdLen | rdAdResult | rdAdBuf0 | rdAdBuf1 | rdAdBuf2 | rdAdBuf3 | rdAdBuf4 | rdAdEncode
  | rdAdDecode | rdRsvd7C => exact .inl ⟨rfl, .inr fun s => ⟨_, exec_eq _ s⟩⟩
  | _ => exact .inr (.inl ⟨⟨_, rfl⟩, fun _ => rfl⟩)

/-- The decoder undoes the encoder. -/
theorem decode_encode (i : Instr) : decode (encode i) = .ok i := by
  obtain ⟨hread, _⟩ | ⟨⟨v, hwrite⟩, _⟩ | ⟨si, rfl⟩ := read_write_or_pulse i
  · rw [encode_of_readInstr hread]
    exact decode_readPacket_iff.mpr hread
  · rw [encode_of_writeInstr hwrite]
    exact decode_writePacket_iff.mpr hwrite
  · cases si <;> rfl

/-- Every multiple of 4 up to 0x7C is the offset of a register, which can be read and written (R51, R79). -/
theorem exists_register {off : Nat} (h4 : off % 4 = 0) (hle : off ≤ 0x7C) (v : Word) :
    (∃ i, readInstr (BitVec.ofNat 8 off) = some i) ∧ ∃ i, writeInstr (BitVec.ofNat 8 off) v = some i := by
  obtain ⟨k, rfl⟩ := Nat.dvd_of_mod_eq_zero h4
  have hk : k < 32 := by omega
  interval_cases k <;> exact ⟨⟨_, rfl⟩, _, rfl⟩

/-! ### From an event to its step (R51, R52, R55) -/

/-- A packet that decodes asks for its operation. -/
theorem fetchPacket_of_decode {p : Packet} {i : Instr} (h : decode p = .ok i) : fetchPacket p = .operation i := by
  simp [fetchPacket, h]

/-- A step whose next event is a packet that decodes takes it and runs its operation (R55). -/
theorem step_encoded {p : Packet} {i : Instr} (h : decode p = .ok i) (s : State) (rest : List Input) :
    step (s.setInputs (.encoded p :: rest)) = exec i (s.setInputs rest) :=
  step_operation rfl (fetchPacket_of_decode h)

/-- A step whose next event is refused is that refusal. -/
theorem step_refused {s : State} {e : Input} {rest : List Input} {r : Refusal} (hs : s.inputs = e :: rest)
    (hf : fetch e = .refuse r) : step s = .refused r := by
  simp [step, hs, hf]

/-- What it takes for a host access to be inside the interface (R51). -/
theorem HostAccess_wellFormed_iff {base : Nat} {a : HostAccess} :
    a.wellFormed base = true ↔
      a.width = .bits32 ∧ (base ≤ a.addr ∧ a.addr < base + 128) ∧ (a.addr - base) % 4 = 0 := by
  simp only [HostAccess.wellFormed, HostAccess.wide, HostAccess.inWindow, HostAccess.aligned, Bool.and_eq_true,
    beq_iff_eq, decide_eq_true_eq, and_assoc]
  refine and_congr_right fun _ => and_congr_right fun hbase => ?_
  rw [Nat.sub_lt_iff_lt_add hbase, Nat.add_comm]

/-- A 32-bit access at an aligned offset of the window asks for what its packet asks for (R51, R70). -/
theorem fetchAccess_aligned {base off : Nat} (h4 : off % 4 = 0) (hle : off ≤ 0x7C) (d : Dir) (v : Word) :
    fetchAccess base ⟨d, base + off, .bits32, v⟩ = fetchPacket (accessPacket base ⟨d, base + off, .bits32, v⟩) := by
  refine if_pos (HostAccess_wellFormed_iff.mpr ⟨rfl, ⟨Nat.le_add_right _ _, ?_⟩, ?_⟩)
  · change base + off < base + 128
    omega
  · change (base + off - base) % 4 = 0
    rwa [Nat.add_sub_cancel_left]

/-- The packet of a read at an offset of the window (R70). -/
theorem accessPacket_read (base off : Nat) (v : Word) :
    accessPacket base ⟨.read, base + off, .bits32, v⟩ = readPacket (BitVec.ofNat 8 off) := by
  simp [accessPacket]

/-- The packet of a write at an offset of the window (R70). -/
theorem accessPacket_write (base off : Nat) (v : Word) :
    accessPacket base ⟨.write, base + off, .bits32, v⟩ = writePacket (BitVec.ofNat 8 off) v := by
  simp [accessPacket]

/-- An aligned 32-bit access whose packet decodes is one step: that operation, which has a next state (R51). -/
theorem step_aligned_access {off : Nat} (h4 : off % 4 = 0) (hle : off ≤ 0x7C) {d : Dir} {v : Word} {p : Packet}
    {i : Instr} (hp : accessPacket Config.blockBase ⟨d, Config.blockBase + off, .bits32, v⟩ = p)
    (hi : decode p = .ok i) (s : State) (rest : List Input) :
    ∃ t, step (s.setInputs (.hostAccess ⟨d, Config.blockBase + off, .bits32, v⟩ :: rest)) =
      exec i (s.setInputs rest) ∧ exec i (s.setInputs rest) = .next t := by
  have hf : fetch (.hostAccess ⟨d, Config.blockBase + off, .bits32, v⟩) = .operation i :=
    (fetchAccess_aligned h4 hle d v).trans (hp ▸ fetchPacket_of_decode hi)
  obtain ⟨t, ht⟩ := exec_completes i (s.setInputs rest)
  exact ⟨t, step_operation rfl hf, ht⟩

/-! ### Running operations given as events (R55, R59) -/

/-- What an operation does, does not depend on the events to come, which it leaves alone. -/
theorem exec_setInputs {i : Instr} {s t : State} (h : exec i s = .next t) (es : List Input) :
    exec i (s.setInputs es) = .next (t.setInputs es) := by
  rw [eq_of_exec h, exec_eq]
  rfl

/-- The events that ask for some operations, in order. -/
def eventsOf (is : List Instr) : List Input := is.map fun i => .encoded (encode i)

/-- A run over the events of some operations ends where the sequence of their meanings ends, with an answer for each,
by induction on the operations. -/
theorem core_run_eventsOf (is : List Instr) (s : State) (rest : List Input) :
    ∃ outs t, runOps is (s.setInputs rest) = some (outs, t) ∧ outs.length = is.length ∧ t.inputs = rest ∧
      core.run is.length (s.setInputs (eventsOf is ++ rest)) = .next t := by
  induction is generalizing s with
  | nil => exact ⟨[], s.setInputs rest, rfl, rfl, rfl, rfl⟩
  | cons i is ih =>
    obtain ⟨u, hu⟩ := exec_completes i s
    obtain ⟨outs, t, hops, hlen, hin, hrun⟩ := ih u
    have hstep : step (s.setInputs (eventsOf (i :: is) ++ rest)) = .next (u.setInputs (eventsOf is ++ rest)) :=
      (step_encoded (decode_encode i) s _).trans (exec_setInputs hu _)
    exact ⟨_, t, runOps_cons (exec_setInputs hu rest) hops, congrArg (· + 1) hlen, hin,
      (core_run_succ hstep is.length).trans hrun⟩

/-! ### Repeated accesses (R54) -/

/-- Storing the same bytes again changes nothing. -/
@[simp] theorem writeBytes_writeBytes {n : Nat} (a : Vector Byte n) (k : Nat) (bs : List Byte) :
    writeBytes (writeBytes a k bs) k bs = writeBytes a k bs := by
  apply eq_of_readByte
  intro j _
  rw [readByte_writeBytes (writeBytes a k bs)]
  split
  next h => rw [readByte_writeBytes, if_pos h]
  next => rfl

/-- Writing the same value to a register again changes nothing. -/
@[simp] theorem writeRegister_writeRegister {n : Nat} (a : Vector Byte n) (k : Nat) (v : Word) :
    writeRegister (writeRegister a k v) k v = writeRegister a k v :=
  writeBytes_writeBytes a (4 * k) (bytesOfWord v)

/-- AD_ENCODE keeps the variant it reads (R160). -/
@[simp] theorem Cas.encodeRecord_type (t : Config.Tags) (c : Cas) : (c.encodeRecord t).type = c.type := by
  unfold Cas.encodeRecord
  split_ifs <;> rfl

/-- AD_DECODE keeps the length it reads (R161). -/
@[simp] theorem Cas.decodeRecord_len (t : Config.Tags) (c : Cas) : (c.decodeRecord t).len = c.len := by
  simp only [Cas.decodeRecord]
  split_ifs <;> rfl

/-- AD_DECODE keeps the bytes it reads (R161). -/
@[simp] theorem Cas.decodeRecord_buf (t : Config.Tags) (c : Cas) : (c.decodeRecord t).buf = c.buf := by
  simp only [Cas.decodeRecord]
  split_ifs <;> rfl

/-- A deserialization that finds no record only says so (R161). -/
theorem Cas.decodeRecord_rejects {t : Config.Tags} {c : Cas}
    (h1 : ¬(1 ≤ c.len.toNat ∧ readByte c.buf 0 = t.none)) (h7 : ¬(7 ≤ c.len.toNat ∧ readByte c.buf 0 = t.ipv4))
    (h19 : ¬(19 ≤ c.len.toNat ∧ readByte c.buf 0 = t.ipv6)) : c.decodeRecord t = { c with result := 0 } :=
  (if_neg h1).trans ((if_neg h7).trans (if_neg h19))

/-- A second serialization changes nothing (R160): it reads TYPE, PORT and HOST, which the first one keeps. -/
theorem Cas.encodeRecord_encodeRecord (t : Config.Tags) (c : Cas) :
    (c.encodeRecord t).encodeRecord t = c.encodeRecord t := by
  have htype := c.encodeRecord_type t
  obtain h | h | h | h := c.type_cases
  · rw [Cas.encodeRecord_none (htype.trans h), Cas.encodeRecord_none h, writeBytes_writeBytes]
  · rw [Cas.encodeRecord_ipv4 (htype.trans h), Cas.encodeRecord_ipv4 h]
    simp [Cas.bufWith]
  · rw [Cas.encodeRecord_ipv6 (htype.trans h), Cas.encodeRecord_ipv6 h]
    simp [Cas.bufWith]
  · rw [Cas.encodeRecord_noVariant (htype.trans h), Cas.encodeRecord_noVariant h]

/-- A second deserialization changes nothing (R161): it reads LEN and BUF, which the first one keeps. -/
theorem Cas.decodeRecord_decodeRecord {t : Config.Tags} (hd : t.distinct = true) (c : Cas) :
    (c.decodeRecord t).decodeRecord t = c.decodeRecord t := by
  by_cases h1 : 1 ≤ c.len.toNat ∧ readByte c.buf 0 = t.none
  · obtain ⟨hlen, htag⟩ := h1
    rw [Cas.decodeRecord_none (c := c.decodeRecord t) (by simpa) (by simpa), Cas.decodeRecord_none hlen htag]
  by_cases h7 : 7 ≤ c.len.toNat ∧ readByte c.buf 0 = t.ipv4
  · obtain ⟨hlen, htag⟩ := h7
    rw [Cas.decodeRecord_ipv4 (c := c.decodeRecord t) hd (by simpa) (by simpa), Cas.decodeRecord_ipv4 hd hlen htag]
    simp [Cas.hostFromBuf, Cas.portFromBuf]
  by_cases h19 : 19 ≤ c.len.toNat ∧ readByte c.buf 0 = t.ipv6
  · obtain ⟨hlen, htag⟩ := h19
    rw [Cas.decodeRecord_ipv6 (c := c.decodeRecord t) hd (by simpa) (by simpa), Cas.decodeRecord_ipv6 hd hlen htag]
    simp [Cas.hostFromBuf, Cas.portFromBuf]
  · rw [Cas.decodeRecord_rejects (c := c.decodeRecord t) (by simpa using h1) (by simpa using h7)
      (by simpa using h19), Cas.decodeRecord_rejects h1 h7 h19]

/-- Repeating an operation leaves CAS as the first one left it, unless it feeds the checksum (R54). -/
theorem casAfter_casAfter {i : Instr} (h : ∀ v, i ≠ .wrCkData v) (c : Cas) :
    casAfter i (casAfter i c) = casAfter i c := by
  cases i with
  | wrCkData v => exact absurd rfl (h v)
  | wrAdHost0 | wrAdHost1 | wrAdHost2 | wrAdHost3 | wrAdBuf0 | wrAdBuf1 | wrAdBuf2 | wrAdBuf3 | wrAdBuf4 =>
    simp only [casAfter, writeRegister_writeRegister]
  | wrAdEncode => exact c.encodeRecord_encodeRecord _
  | wrAdDecode => exact c.decodeRecord_decodeRecord Config_tags_distinct
  | _ => rfl

/-- A second write of the same LCT_CTRL word changes nothing: it keeps the width the first one set (R103). -/
theorem Lct.writeCtrl_writeCtrl (l : Lct) (v : Word) : (l.writeCtrl v).writeCtrl v = l.writeCtrl v := by
  have hw : w32Field v = (l.writeCtrl v).w32 := rfl
  rw [Lct.writeCtrl_same hw]
  rfl

/-- A second write of the same LCT_TXDATA word changes nothing (R102). -/
theorem Lct.sendWord_sendWord (l : Lct) (v : Word) : (l.sendWord v).sendWord v = l.sendWord v := rfl

/-- A second LCT_RESET changes nothing (R104). -/
theorem Lct.transportReset_transportReset (l : Lct) : l.transportReset.transportReset = l.transportReset := rfl

/-- A second LCT_CLEAR changes nothing (R105). -/
theorem Lct.clearBuffers_clearBuffers (l : Lct) : l.clearBuffers.clearBuffers = l.clearBuffers := rfl

/-- Repeating a host access leaves LCT as the first one left it (R54); only a pulse goes on. -/
theorem lctAfter_repeat {i : Instr} (h : ∀ si, i ≠ .pulse si) {s t : State} (ht : t.lct = lctAfter i s) :
    lctAfter i t = t.lct := by
  cases i with
  | pulse si => exact absurd rfl (h si)
  | rdLctRxdata | wrLctCtrl | wrLctTxdata | wrLctReset | wrLctClear =>
    simp only [lctAfter, ht, Lct.writeCtrl_writeCtrl, Lct.sendWord_sendWord, Lct.transportReset_transportReset,
      Lct.clearBuffers_clearBuffers]
  | _ => rfl

/-- Only a pulse draws free values (R121, R123). -/
theorem drawsAfter_of_ne_pulse {i : Instr} (h : ∀ si, i ≠ .pulse si) (s : State) : drawsAfter i s = s.draws := by
  cases i with
  | pulse si => exact absurd rfl (h si)
  | _ => rfl

/-- A write answers nothing (R9). -/
theorem outAfter_write {i : Instr} {off : Byte} {v : Word} (h : encode i = writePacket off v) (s : State) :
    outAfter i s = .nothing := by
  obtain ⟨hread, _⟩ | ⟨_, hout⟩ | ⟨si, rfl⟩ := read_write_or_pulse i
  · exact absurd (h.symm.trans (encode_of_readInstr hread)) (writePacket_ne_readPacket _ _ _)
  · exact hout s
  · exact absurd h (pulsePacket_ne_writePacket si off v)

/-- A read other than that of LCT_RXDATA changes only the answer (R54). -/
theorem exec_read {i : Instr} {off : Byte} (h : encode i = readPacket off) (hne : i ≠ .rdLctRxdata) (s : State) :
    ∃ v, exec i s = .next (s.setOut (.readData v)) := by
  obtain ⟨_, rfl | hexec⟩ | ⟨⟨v, hwrite⟩, _⟩ | ⟨si, rfl⟩ := read_write_or_pulse i
  · exact absurd rfl hne
  · exact hexec s
  · exact absurd ((encode_of_writeInstr hwrite).symm.trans h) (writePacket_ne_readPacket _ _ _)
  · exact absurd h (pulsePacket_ne_readPacket si off)

/-- A write other than that of CK_DATA, repeated at once, leaves the state as it is (R54). -/
theorem exec_write_repeat {i : Instr} {off : Byte} {v : Word} (h : encode i = writePacket off v)
    (hne : i ≠ .wrCkData v) {s t : State} (ht : exec i s = .next t) : exec i t = .next t := by
  have hpulse : ∀ si, i ≠ .pulse si := by
    rintro si rfl
    exact pulsePacket_ne_writePacket si off v h
  have hdata : ∀ w, i ≠ .wrCkData w := by
    rintro w rfl
    exact hne (congrArg Instr.wrCkData (writePacket_operand_inj h))
  have hcas : casAfter i t.cas = t.cas := by
    rw [(cas_draws_of_exec ht).1, casAfter_casAfter hdata]
  have hout : outAfter i t = t.out := by
    rw [outAfter_write h, eq_of_exec ht, outAfter_write h]
  rw [exec_eq, lctAfter_repeat hpulse (lct_of_exec ht), hcas, hout, drawsAfter_of_ne_pulse hpulse]

/-- `v[7:0]` as a number (R76). -/
theorem toNat_byteField (v : Word) : (byteField v).toNat = v.toNat % 256 := by
  simp [byteField, BitVec.extractLsb'_toNat]

/-- A write of CK_DATA adds the low byte of its operand modulo 65536 (R141). -/
theorem toNat_acc_of_wrCkData {v : Word} {s t : State} (h : exec (.wrCkData v) s = .next t) :
    t.cas.acc.toNat = (s.cas.acc.toNat + v.toNat % 256) % 65536 := by
  rw [(cas_draws_of_exec h).1, casAfter, toNat_addByte, toNat_byteField]

/-! ### The statements -/

/-- Settles O4: each event's step is its operation's meaning, beside any events to come. -/
theorem eventsRunInOrder : Obligations.EventsRunInOrder := core_run_eventsOf

/-- Settles O5: the aligned offset has a register, and the access's packet decodes to its read or its write. -/
theorem alignedWordAccessIsOneOperation : Obligations.AlignedWordAccessIsOneOperation := by
  intro s rest off v h4 hle
  obtain ⟨⟨i, hi⟩, ⟨j, hj⟩⟩ := exists_register h4 hle v
  have hread := decode_readPacket_iff.mpr hi
  have hwrite := decode_writePacket_iff.mpr hj
  obtain ⟨t, ht⟩ := step_aligned_access h4 hle (accessPacket_read _ off v) hread s rest
  obtain ⟨u, hu⟩ := step_aligned_access h4 hle (accessPacket_write _ off v) hwrite s rest
  exact ⟨⟨i, t, hread, ht⟩, j, u, hwrite, hu⟩

/-- Settles O6: each way out of the interface denies one condition of R51. -/
theorem accessOutsideInterfaceIsRefused : Obligations.AccessOutsideInterfaceIsRefused := by
  intro s rest a h
  have hwf : ¬ a.wellFormed Config.blockBase = true := by
    rw [HostAccess_wellFormed_iff]
    rintro ⟨hwidth, ⟨hbase, htop⟩, h4⟩
    obtain h | h | h | h := h
    · exact h hwidth
    · exact absurd hbase (Nat.not_le.mpr h)
    · exact absurd htop (Nat.not_lt.mpr h)
    · exact h h4
  exact step_refused rfl (if_neg hwf)

/-- Settles O37: reads by the operations that are encoded as reads, writes by what repeating does to each sub-block,
and CK_DATA by its sum. -/
theorem accessesAreIdempotentButTwo : Obligations.AccessesAreIdempotentButTwo := by
  refine ⟨fun off i s hi hne => ?_, fun off v i s t hi hne ht => ?_, fun v s t u ht hu => ?_⟩
  · exact exec_read (encode_of_readInstr (decode_readPacket_iff.mp hi)) hne s
  · exact exec_write_repeat (encode_of_writeInstr (decode_writePacket_iff.mp hi)) hne ht
  · rw [toNat_acc_of_wrCkData hu, toNat_acc_of_wrCkData ht, Nat.mod_add_mod, Nat.add_assoc, ← Nat.two_mul]

/-- Settles O3: the packet's decoding is what the event asks for. -/
theorem stepRunsTheDecodedOperation : Obligations.StepRunsTheDecodedOperation :=
  fun s _ rest _ h _ => step_encoded h s rest

/-- Settles O21: the twelve reserved accesses, each by its meaning. -/
theorem reservedOffsetsReadZeroIgnoreWrites : Obligations.ReservedOffsetsReadZeroIgnoreWrites := by
  intro v s
  simp only [List.forall_mem_cons]
  exact ⟨⟨exec_rdRsvd18 s, exec_rdRsvd1C s, exec_rdRsvd34 s, exec_rdRsvd38 s, exec_rdRsvd3C s, exec_rdRsvd7C s,
      List.forall_mem_nil _⟩,
    exec_wrRsvd18 v s, exec_wrRsvd1C v s, exec_wrRsvd34 v s, exec_wrRsvd38 v s, exec_wrRsvd3C v s, exec_wrRsvd7C v s,
    List.forall_mem_nil _⟩

end Sys2Proof.Machine

/-! PROOF. The statements of 30_encoding.md: decoder and encoder undo each other (R70, R71), and which offsets are
registers' (R79, R80). -/

namespace Sys2Proof.Machine

/-! ### What decodes (R70, R71) -/

/-- A packet with DIR = 1 and four operand bytes is the write of the word they make up (R70). -/
theorem writePacket_wordOfBytes (off b0 b1 b2 b3 : Byte) :
    writePacket off (wordOfBytes b0 b1 b2 b3) = ⟨.a, [off, 1, b0, b1, b2, b3]⟩ := by
  rw [writePacket, bytesOfWord_wordOfBytes]

/-- A Format A packet decodes when its bytes do and none is left over. -/
theorem decode_formatA_iff {bs : List Byte} {i : Instr} :
    decode ⟨.a, bs⟩ = .ok i ↔ decodeFormatA bs = .ok (i, []) := by
  simp only [decode]
  split <;> simp_all

/-- A Format P packet decodes when its bytes do and none is left over. -/
theorem decode_formatP_iff {bs : List Byte} {i : Instr} :
    decode ⟨.p, bs⟩ = .ok i ↔ decodeFormatP bs = .ok (i, []) := by
  simp only [decode]
  split <;> simp_all

/-- What the bytes of a Format A packet can decode to (R70): with DIR = 0 the read of a register, with DIR = 1 the
write of the next four bytes to one. -/
theorem decodeFormatA_cases {bs rest : List Byte} {i : Instr} (h : decodeFormatA bs = .ok (i, rest)) :
    (∃ off, bs = off :: 0 :: rest ∧ readInstr off = some i) ∨
    ∃ off b0 b1 b2 b3, bs = off :: 1 :: b0 :: b1 :: b2 :: b3 :: rest ∧
      writeInstr off (wordOfBytes b0 b1 b2 b3) = some i := by
  revert h
  fun_cases decodeFormatA bs with
  | case1 off tail j hj =>
    rintro ⟨⟩
    exact .inl ⟨off, rfl, hj⟩
  | case3 off b0 b1 b2 b3 tail j hj _ =>
    rintro ⟨⟩
    exact .inr ⟨off, b0, b1, b2, b3, rfl, hj⟩
  | _ => nofun

/-- What the bytes of a Format P packet can decode to (R71): the pulse that its first byte encodes. -/
theorem decodeFormatP_cases {bs rest : List Byte} {i : Instr} (h : decodeFormatP bs = .ok (i, rest)) :
    ∃ si, bs = (pulsePacket si).bytes ++ rest ∧ i = .pulse si := by
  revert h
  fun_cases decodeFormatP bs with
  | case1 tail =>
    rintro ⟨⟩
    exact ⟨false, rfl, rfl⟩
  | case2 tail =>
    rintro ⟨⟩
    exact ⟨true, rfl, rfl⟩
  | _ => nofun

/-- What a packet can decode to: the packet is a read's, a write's or a pulse's (R70, R71). -/
theorem decode_cases {p : Packet} {i : Instr} (h : decode p = .ok i) :
    (∃ off, p = readPacket off ∧ readInstr off = some i) ∨
    (∃ off v, p = writePacket off v ∧ writeInstr off v = some i) ∨
    ∃ si, p = pulsePacket si ∧ i = .pulse si := by
  obtain ⟨_ | _, bs⟩ := p
  case a =>
    obtain ⟨off, rfl, hi⟩ | ⟨off, b0, b1, b2, b3, rfl, hi⟩ := decodeFormatA_cases (decode_formatA_iff.mp h)
    · exact .inl ⟨off, rfl, hi⟩
    · exact .inr (.inl ⟨off, _, (writePacket_wordOfBytes off b0 b1 b2 b3).symm, hi⟩)
  case p =>
    obtain ⟨si, rfl, hi⟩ := decodeFormatP_cases (decode_formatP_iff.mp h)
    exact .inr (.inr ⟨si, rfl, hi⟩)

/-- The encoder undoes the decoder. -/
theorem encode_of_decode {p : Packet} {i : Instr} (h : decode p = .ok i) : encode i = p := by
  obtain ⟨off, rfl, hi⟩ | ⟨off, v, rfl, hi⟩ | ⟨si, rfl, rfl⟩ := decode_cases h
  · exact encode_of_readInstr hi
  · exact encode_of_writeInstr hi
  · rfl

/-! ### Which offsets are registers' (R79, R80) -/

/-- Every operation's encoding has the shape of R70 or R71. -/
theorem encodingShape (i : Instr) : Laws.EncodingShape.Statement i := by
  cases i with
  | pulse si => exact Laws.EncodingShape.pulse si
  | _ => exact ⟨rfl, by decide, by decide⟩

/-- The first byte of an operation's Format A packet is a register's offset (R70, R79). -/
theorem register_of_encode {off : Byte} {bs : List Byte} {i : Instr} (h : encode i = ⟨.a, off :: bs⟩) :
    off.toNat % 4 = 0 ∧ off.toNat ≤ 0x7C := by
  have hshape := encodingShape i
  rw [Laws.EncodingShape.Statement, h] at hshape
  split at hshape
  case h_1 hbytes | h_2 hbytes =>
    cases hbytes
    exact hshape.2
  case h_3 hformat _ => cases hformat
  case h_4 => exact hshape.elim

/-! ### The statements -/

/-- Settles O8: an operation is a read, a write or a pulse, and each packet decodes by its own rule. -/
theorem decodeReadsBackEveryEncoding : Obligations.DecodeReadsBackEveryEncoding := decode_encode

/-- Settles O9: a packet that decodes is a read's, a write's or a pulse's, and each is the encoding of its operation. -/
theorem everyDecodedPacketIsAnEncoding : Obligations.EveryDecodedPacketIsAnEncoding := fun _ _ => encode_of_decode

/-- Settles O10: what decodes is encoded with its offset, which is a register's; and each register can be read and
written. -/
theorem descriptorDecodesIffOffsetIsARegister : Obligations.DescriptorDecodesIffOffsetIsARegister := by
  intro off v
  refine ⟨⟨fun ⟨i, hi⟩ => register_of_encode (encode_of_decode hi), fun ⟨h4, hle⟩ => ?_⟩,
    fun ⟨i, hi⟩ => register_of_encode (encode_of_decode hi), fun ⟨h4, hle⟩ => ?_⟩
  · obtain ⟨i, hi⟩ := (exists_register h4 hle v).1
    exact ⟨i, decode_readPacket_iff.mpr (by simpa using hi)⟩
  · obtain ⟨i, hi⟩ := (exists_register h4 hle v).2
    exact ⟨i, decode_writePacket_iff.mpr (by simpa using hi)⟩

/-- Settles O11: the table's two columns agree row by row, as the decoder evaluates them. -/
theorem writtenOutWordsDecode : Obligations.WrittenOutWordsDecode :=
  ⟨List.map_inj_left.mp rfl, fun _ _ _ _ => List.map_inj_left.mp rfl, rfl, rfl, rfl⟩

end Sys2Proof.Machine

/-! PROOF. The statements of 40_transport.md: the transport's registers (R100 to R109), the host's procedures (R110 to
R117) and the peer's pulse (R120 to R128). -/

namespace Sys2Proof.Machine

/-! ### Words and masks -/

/-- Alignment at a width up to 32 is the shift alone (R106): the masked bits are shifted out. -/
theorem align_eq_shiftLeft {w : Nat} (hw : w ≤ 32) (v : Word) : align w v = v <<< (32 - w) := by
  apply BitVec.eq_of_getLsbD_eq
  intro i hi
  rw [getLsbD_align w v i hw, BitVec.getLsbD_shiftLeft]
  by_cases h : i < 32 - w
  · simp [h, Nat.not_le.mpr h]
  · simp [hi, h, Nat.le_of_not_lt h]

/-- A word with only zeros below its top `w` bits is shifted out by `w` bits (R106). -/
theorem shiftLeft_eq_zero_of_and_mask {w : Nat} {x : Word} (h : x &&& mask (32 - w) = 0) : x <<< w = 0 := by
  apply BitVec.eq_of_getLsbD_eq
  intro i hi
  have hbit := congrArg (·.getLsbD (i - w)) h
  simp only [BitVec.getLsbD_and, getLsbD_mask _ _ (Nat.sub_le 32 w)] at hbit
  rw [BitVec.getLsbD_shiftLeft]
  by_cases hiw : i < w
  · simp [hiw]
  · simpa [hiw, show i - w < 32 - w by omega] using fun _ => hbit

/-- The bit shifted in at a pulse, as R120 writes it. -/
theorem zextBit_eq_ite (b : Bool) : zextBit b = if b then 1 else 0 := by cases b <;> rfl

/-- The mask of the width, written out (R7). -/
theorem mask_width (l : Lct) : mask l.width = if l.w32 then 0xFFFFFFFF else 0xFF := by
  unfold Lct.width
  cases l.w32 <;> rfl

/-- A word aligned at the current width, written out (R106). -/
theorem align_width (l : Lct) (v : Word) :
    align l.width v = if l.w32 then v else v.extractLsb' 0 8 ++ 0#24 := by
  rw [align_eq_shiftLeft l.width_le]
  obtain ⟨hw, hwidth⟩ | ⟨hw, hwidth⟩ := l.width_cases
  · rw [hwidth, hw, if_neg Bool.false_ne_true]
    apply BitVec.eq_of_getLsbD_eq
    intro i hi
    rw [BitVec.getLsbD_shiftLeft, BitVec.getLsbD_append, BitVec.getLsbD_extractLsb']
    by_cases h : i < 24
    · simp [h]
    · simp [h, hi, show i - 24 < 8 by omega]
  · simp [hwidth, hw]

/-! ### What the two reads of control and status assemble (R100, R107) -/

/-- The fields of the word a read of LCT_CTRL answers (R100). -/
theorem ctrlWord_fields (l : Lct) :
    (ctrlWord l).getLsbD 0 = l.en ∧ (ctrlWord l).getLsbD 1 = l.w32 ∧ (ctrlWord l).getLsbD 2 = l.ie ∧
      (ctrlWord l).extractLsb' 3 29 = 0 := by
  unfold ctrlWord
  cases l.en <;> cases l.w32 <;> cases l.ie <;> decide

/-- The fields of the word a read of LCT_STATUS answers (R107). -/
theorem statusWord_fields (l : Lct) (irq : Bool) :
    (statusWord l irq).getLsbD 0 = l.rxv ∧ (statusWord l irq).getLsbD 1 = l.txp ∧
      (statusWord l irq).getLsbD 2 = irq ∧ (statusWord l irq).extractLsb' 3 5 = 0 ∧
      (statusWord l irq).extractLsb' 8 5 = l.bitcnt ∧ (statusWord l irq).extractLsb' 13 19 = 0 := by
  unfold statusWord
  generalize l.bitcnt = n
  revert n
  cases l.rxv <;> cases l.txp <;> cases irq <;> decide

/-! ### The registers' statements (R100 to R109) -/

/-- Settles O12: the read's meaning, and the fields of the word it answers. -/
theorem readControlAnswersItsThreeFields : Obligations.ReadControlAnswersItsThreeFields :=
  fun s => ⟨ctrlWord s.lct, exec_rdLctCtrl s, ctrlWord_fields s.lct⟩

/-- Settles O13: the read's meaning, and the fields of the word it answers. -/
theorem readStatusAnswersFlagsAndCount : Obligations.ReadStatusAnswersFlagsAndCount :=
  fun s => ⟨statusWord s.lct s.irq, exec_rdLctStatus s, statusWord_fields s.lct s.irq⟩

/-- Settles O14: the read keeps RXBUF and the width, so the second one answers the same. -/
theorem readReceivedWordConsumesIt : Obligations.ReadReceivedWordConsumesIt := by
  intro s
  refine ⟨_, exec_rdLctRxdata s, ?_, rfl⟩
  rw [rxdataWord, mask_width]
  rfl

/-- Settles O15: both widths written out, and bit by bit below the word. -/
theorem alignmentPutsWordInTopBits : Obligations.AlignmentPutsWordInTopBits := by
  refine fun l v => ⟨fun h => ?_, fun h => ?_, fun k hk => ?_⟩
  · rw [align_width, if_pos h]
  · rw [align_width, h, if_neg Bool.false_ne_true]
  · rw [getLsbD_align _ _ _ l.width_le]
    simp [Nat.not_le.mpr hk]

/-- Settles O16: the write's meaning, the aligned word written out. -/
theorem writeTransmitDataReplacesPendingWord : Obligations.WriteTransmitDataReplacesPendingWord := by
  intro v s
  rw [exec_wrLctTxdata, Lct.sendWord, align_width]
  rfl

/-- Settles O17: the write that keeps the width, and the one that changes it. -/
theorem writeControlClearsOnWidthChangeOnly : Obligations.WriteControlClearsOnWidthChangeOnly := by
  intro v s
  rw [exec_wrLctCtrl]
  by_cases h : v.getLsbD 1 = s.lct.w32
  · rw [Lct.writeCtrl_same h]
    simp only [if_pos h]
    rfl
  · rw [Lct.writeCtrl_change h]
    simp only [if_neg h]
    rfl

/-- Settles O18: the write's meaning. -/
theorem transportResetRestartsAndEnables : Obligations.TransportResetRestartsAndEnables :=
  fun v s => exec_wrLctReset v s

/-- Settles O19: the write's meaning. -/
theorem clearBuffersKeepsFraming : Obligations.ClearBuffersKeepsFraming :=
  fun v s => exec_wrLctClear v s

/-- Settles O20: the five meanings. -/
theorem transportInertAccessesChangeNothing : Obligations.TransportInertAccessesChangeNothing :=
  fun v s => ⟨exec_rdLctTxdata s, exec_rdLctReset s, exec_rdLctClear s, exec_wrLctStatus v s, exec_wrLctRxdata v s⟩

/-! ### The pulse (R120, R121) -/

/-- A pulse finds the last bit of a word when the counter stands at `W - 1` (R120). -/
theorem Lct.endsWord_iff (l : Lct) : l.endsWord = true ↔ l.bitcnt.toNat = l.width - 1 := by
  simp [Lct.endsWord]

/-- A pulse begins a word when the counter stands at 0 (R120). -/
theorem Lct.startsWord_iff (l : Lct) : l.startsWord = true ↔ l.bitcnt = 0 := by
  simp [Lct.startsWord]

/-- The pulse while `EN = 1` is one exchange (R120). -/
theorem exec_pulse_enabled (si : Bool) {s : State} (h : s.lct.en = true) :
    exec (.pulse si) s = .next (s.pulseEnabled si) := by
  rw [exec_pulse, if_pos h]

/-- One exchange, each field written out (R120). -/
theorem Lct.exchange_eq (l : Lct) (idle : Word) (si : Bool) :
    l.exchange idle si = { l with
      txp := if l.bitcnt = 0 then false else l.txp
      txsr := l.shiftSource idle <<< 1
      rxsr := l.shiftedIn si
      rxbuf := if l.bitcnt.toNat = l.width - 1 then l.shiftedIn si &&& mask l.width else l.rxbuf
      rxv := if l.bitcnt.toNat = l.width - 1 then true else l.rxv
      bitcnt := if l.bitcnt.toNat = l.width - 1 then 0 else l.bitcnt + 1 } := by
  have htxp : (l.txp && !l.startsWord) = if l.bitcnt = 0 then false else l.txp := by
    cases hs : l.startsWord with
    | true => rw [if_pos (l.startsWord_iff.mp hs), Bool.not_true, Bool.and_false]
    | false => rw [if_neg (by simpa [Lct.startsWord] using hs), Bool.not_false, Bool.and_true]
  by_cases h : l.bitcnt.toNat = l.width - 1
  · rw [Lct.exchange_ends idle si (l.endsWord_iff.mpr h), htxp]
    simp only [if_pos h]
  · rw [Lct.exchange_within idle si (by simpa [Lct.endsWord] using h), htxp]
    simp only [if_neg h]

/-- The register shifted out of, as R120 writes it. -/
theorem Lct.shiftSource_eq (l : Lct) (idle : Word) :
    l.shiftSource idle =
      if l.bitcnt = 0 then (if l.txp = true then l.txbuf else align l.width idle) else l.txsr := by
  simp only [Lct.shiftSource, Lct.startsWord_iff]

/-- Settles O22: `t` and `r` of R120 are the register shifted out of and the receive register after the pulse. -/
theorem pulseExchangesOneBit : Obligations.PulseExchangesOneBit := by
  intro si s hen
  refine ⟨s.lct.shiftSource (Config.idleTxWord s.draws), s.lct.shiftedIn si, Lct.shiftSource_eq _ _, ?_, ?_⟩
  · rw [Lct.shiftedIn, zextBit_eq_ite]
  · have hdraws : s.lct.underruns = true ↔ s.lct.bitcnt = 0 ∧ s.lct.txp = false := by
      simp [Lct.underruns, Lct.startsWord_iff]
    rw [exec_pulse_enabled si hen, State.pulseEnabled, Lct.exchange_eq, mask_width]
    simp only [hdraws]
    rfl

/-- Settles O23: the pulse's meaning while `EN = 0` touches no sub-block. -/
theorem pulseWhileDisabledChangesNothing : Obligations.PulseWhileDisabledChangesNothing := by
  intro si s hen
  rw [exec_pulse, if_neg (by simp [hen])]
  rfl

/-- Settles O27: an exchange that ends the word writes RXBUF and RXV without looking at them. -/
theorem overrunKeepsLatestWordOnly : Obligations.OverrunKeepsLatestWordOnly := by
  intro si s old hen hlast _
  have hends := s.lct.endsWord_iff.mpr hlast
  refine ⟨_, exec_pulse_enabled si hen, ?_, ?_, ?_⟩
  · rw [State.pulseEnabled, Lct.exchange_ends _ si hends]
    rfl
  · rw [State.pulseEnabled, Lct.exchange_ends _ si hends, ← mask_width, ← zextBit_eq_ite]
    rfl
  · rw [exec_pulse_enabled si (s := { s with lct := { s.lct with rxv := false, rxbuf := old } }) hen,
      State.pulseEnabled, State.pulseEnabled, Lct.exchange_ends _ si hends,
      Lct.exchange_ends (l := { s.lct with rxv := false, rxbuf := old }) _ si hends]
    rfl

/-! ### What every step keeps (R42, R127, R128) -/

/-- At a word's start an empty TXSR is drained. -/
theorem Lct.txsrDrained_of_zero {l : Lct} (hb : l.bitcnt = 0) (ht : l.txsr = 0) : l.txsrDrained :=
  (if_pos hb).mpr ht

/-- The bits not sent yet, of the register the pulse shifts out of: `BITCNT` bits fewer than the word's (R106, R120). -/
theorem Lct.shiftSource_drained {l : Lct} (h : l.Inv) (ht : l.txsrDrained) (idle : Word) :
    l.shiftSource idle <<< (l.width - l.bitcnt.toNat) = 0 := by
  obtain ⟨_, _, htx⟩ := h
  rw [Lct.shiftSource_eq]
  by_cases h0 : l.bitcnt = 0
  · rw [if_pos h0, show l.width - l.bitcnt.toNat = l.width by rw [h0]; rfl]
    split
    next hp => exact shiftLeft_eq_zero_of_and_mask (htx hp)
    next => exact shiftLeft_eq_zero_of_and_mask (align_and_mask l.width_le idle)
  · rw [if_neg h0]
    rwa [Lct.txsrDrained, if_neg h0] at ht

/-- One exchange keeps TXSR to the bits not sent yet: it shifts one out and counts it (R120). -/
theorem Lct.txsrDrained_exchange {l : Lct} (h : l.Inv) (ht : l.txsrDrained) (idle : Word) (si : Bool) :
    (l.exchange idle si).txsrDrained := by
  have hsrc := Lct.shiftSource_drained h ht idle
  have hlt : l.bitcnt.toNat < l.width := h.1
  have hle := l.width_le
  cases he : l.endsWord with
  | true =>
    have hlast := l.endsWord_iff.mp he
    rw [Lct.exchange_ends idle si he]
    refine Lct.txsrDrained_of_zero rfl ?_
    rwa [show l.width - l.bitcnt.toNat = 1 by omega] at hsrc
  | false =>
    have hne : l.bitcnt.toNat ≠ l.width - 1 := by simpa [Lct.endsWord] using he
    have hcount : (l.bitcnt + 1).toNat = l.bitcnt.toNat + 1 := by bv_omega
    have hpos : l.bitcnt + 1 ≠ 0 := fun h0 => by rw [h0] at hcount; exact absurd hcount (Nat.succ_ne_zero _).symm
    rw [Lct.exchange_within idle si he, Lct.txsrDrained, if_neg hpos]
    change (l.shiftSource idle <<< 1) <<< (l.width - (l.bitcnt + 1).toNat) = 0
    rwa [← BitVec.shiftLeft_add, hcount, show 1 + (l.width - (l.bitcnt.toNat + 1)) = l.width - l.bitcnt.toNat by omega]

/-- A write of LCT_CTRL keeps TXSR to the bits not sent yet: one that changes the width empties it (R103). -/
theorem Lct.txsrDrained_writeCtrl {l : Lct} (h : l.txsrDrained) (v : Word) : (l.writeCtrl v).txsrDrained := by
  by_cases hw : w32Field v = l.w32
  · rw [Lct.writeCtrl_same hw, hw]
    exact h
  · rw [Lct.writeCtrl_change hw]
    exact Lct.txsrDrained_of_zero rfl rfl

/-- Every operation keeps TXSR to the bits not sent yet. -/
theorem txsrDrained_lctAfter {s : State} (h : s.lct.Inv) (ht : s.lct.txsrDrained) (i : Instr) :
    (lctAfter i s).txsrDrained := by
  cases i with
  | wrLctCtrl v => exact Lct.txsrDrained_writeCtrl ht v
  | wrLctReset v => exact Lct.txsrDrained_of_zero rfl rfl
  | pulse si =>
    cases hen : s.lct.en with
    | true => rw [lctAfter_pulse_enabled si hen]; exact Lct.txsrDrained_exchange h ht _ si
    | false => rw [lctAfter_pulse_disabled si hen]; exact ht
  | _ => exact ht

/-- Settles O30: each operation keeps it, under R40, and the power-on reset empties TXSR. -/
theorem everyStepKeepsTransmitRegisterDrained : Obligations.EveryStepKeepsTransmitRegisterDrained := by
  refine ⟨Lct.txsrDrained_of_zero rfl rfl, fun s t hinv hs h => ?_⟩
  obtain ⟨_, rfl⟩ | ⟨_, rest, i, _, _, hx⟩ | ⟨_, _, _, _, rfl⟩ := step_cases h
  · exact hs
  · rw [lct_of_exec hx]
    exact txsrDrained_lctAfter (s := s.setInputs rest) hinv hs i
  · exact Lct.txsrDrained_of_zero rfl rfl

/-- An operation that changes the width restarts the word and empties the receive side (R103, R127). -/
theorem lctAfter_of_width_change {i : Instr} {s : State} (h : (lctAfter i s).w32 ≠ s.lct.w32) :
    (lctAfter i s).bitcnt = 0 ∧ (lctAfter i s).rxbuf = 0 ∧ (lctAfter i s).rxv = false := by
  cases i with
  | wrLctCtrl v =>
    change (s.lct.writeCtrl v).bitcnt = 0 ∧ (s.lct.writeCtrl v).rxbuf = 0 ∧ (s.lct.writeCtrl v).rxv = false
    rw [Lct.writeCtrl_change h]
    exact ⟨rfl, rfl, rfl⟩
  | pulse si =>
    refine absurd ?_ h
    cases hen : s.lct.en with
    | true => rw [lctAfter_pulse_enabled si hen, Lct.exchange_w32]
    | false => rw [lctAfter_pulse_disabled si hen]
  | _ => exact absurd rfl h

/-- Settles O32: only a write of LCT_CTRL and the power-on reset change the width, and both restart the word. -/
theorem widthChangeRestartsTheWord : Obligations.WidthChangeRestartsTheWord := by
  intro s t hs h
  obtain ⟨hbit, hrx, _⟩ := State.inv_of_step h hs
  refine ⟨fun hw => ?_, hbit, hrx⟩
  obtain ⟨_, rfl⟩ | ⟨_, rest, i, _, _, hx⟩ | ⟨_, _, _, _, rfl⟩ := step_cases h
  · exact absurd rfl hw
  · rw [lct_of_exec hx] at hw ⊢
    exact lctAfter_of_width_change (s := s.setInputs rest) hw
  · exact ⟨rfl, rfl, rfl⟩

end Sys2Proof.Machine

/-! PROOF. 40_transport.md, continued: what moves the transport's flags (R42, R122, R128), and the host's procedures on
the control register (R110, R114, R116). -/

namespace Sys2Proof.Machine

/-! ### What moves BITCNT, RXV and TXP (R42, R122, R128) -/

/-- A write of LCT_CTRL that keeps the width keeps the counter and both flags (R103). -/
theorem Lct.writeCtrl_keeps {l : Lct} {v : Word} (h : v.getLsbD 1 = l.w32) :
    (l.writeCtrl v).bitcnt = l.bitcnt ∧ (l.writeCtrl v).rxv = l.rxv ∧ (l.writeCtrl v).txp = l.txp := by
  rw [Lct.writeCtrl_same h]
  exact ⟨rfl, rfl, rfl⟩

/-- A write of LCT_CTRL never makes a word pending (R103). -/
theorem Lct.writeCtrl_txp {l : Lct} (h : l.txp = false) (v : Word) : (l.writeCtrl v).txp = false := by
  by_cases hw : w32Field v = l.w32
  · obtain ⟨_, _, htxp⟩ := Lct.writeCtrl_keeps hw
    exact htxp.trans h
  · rw [Lct.writeCtrl_change hw]
    rfl

/-- An exchange sets RXV at a word's last bit and else leaves it (R120). -/
theorem Lct.exchange_rxv (l : Lct) (idle : Word) (si : Bool) :
    (l.exchange idle si).rxv = if l.bitcnt.toNat = l.width - 1 then true else l.rxv := by
  rw [Lct.exchange_eq]

/-- An exchange takes the pending word at a word's start and else leaves it (R120). -/
theorem Lct.exchange_txp (l : Lct) (idle : Word) (si : Bool) :
    (l.exchange idle si).txp = if l.bitcnt = 0 then false else l.txp := by
  rw [Lct.exchange_eq]

/-- What completes a word: a pulse while `EN = 1` at the word's last bit (R120). -/
theorem completesWord_operation_iff {i : Instr} {s : State} :
    completesWord (.operation i) s = true ↔
      ∃ si, i = .pulse si ∧ s.lct.en = true ∧ s.lct.bitcnt.toNat = s.lct.width - 1 := by
  cases i <;> simp [completesWord, Lct.endsWord]

/-- BITCNT changes only at a pulse while `EN = 1`, a transport reset or a width change (R128). -/
theorem bitcnt_changes {i : Instr} {s : State} (h : (lctAfter i s).bitcnt ≠ s.lct.bitcnt) :
    (∃ si, i = .pulse si ∧ s.lct.en = true) ∨ (∃ v, i = .wrLctReset v) ∨
      (∃ v, i = .wrLctCtrl v ∧ v.getLsbD 1 ≠ s.lct.w32) := by
  cases i with
  | wrLctCtrl v => exact .inr (.inr ⟨v, rfl, fun hw => let ⟨hbit, _, _⟩ := Lct.writeCtrl_keeps hw; h hbit⟩)
  | wrLctReset v => exact .inr (.inl ⟨v, rfl⟩)
  | pulse si =>
    cases hen : s.lct.en with
    | true => exact .inl ⟨si, rfl, rfl⟩
    | false => exact absurd (congrArg Lct.bitcnt (lctAfter_pulse_disabled si hen)) h
  | _ => exact absurd rfl h

/-- RXV rises only at the pulse that completes a word (R122). -/
theorem rxv_rises {i : Instr} {s : State} (hs : s.lct.rxv = false) (h : (lctAfter i s).rxv = true) :
    ∃ si, i = .pulse si ∧ s.lct.en = true ∧ s.lct.bitcnt.toNat = s.lct.width - 1 := by
  refine completesWord_operation_iff.mp ?_
  by_contra hc
  rw [lctAfter_rxv_of_not_completesWord (Bool.eq_false_iff.mpr hc) hs] at h
  exact Bool.false_ne_true h

/-- RXV falls only at a read of LCT_RXDATA, a reset, a clear or a width change (R42). -/
theorem rxv_falls {i : Instr} {s : State} (hs : s.lct.rxv = true) (h : (lctAfter i s).rxv = false) :
    i = .rdLctRxdata ∨ (∃ v, i = .wrLctReset v) ∨ (∃ v, i = .wrLctClear v) ∨
      (∃ v, i = .wrLctCtrl v ∧ v.getLsbD 1 ≠ s.lct.w32) := by
  have hne : (lctAfter i s).rxv ≠ s.lct.rxv := by simp [h, hs]
  cases i with
  | rdLctRxdata => exact .inl rfl
  | wrLctReset v => exact .inr (.inl ⟨v, rfl⟩)
  | wrLctClear v => exact .inr (.inr (.inl ⟨v, rfl⟩))
  | wrLctCtrl v => exact .inr (.inr (.inr ⟨v, rfl, fun hw => let ⟨_, hrxv, _⟩ := Lct.writeCtrl_keeps hw; hne hrxv⟩))
  | pulse si =>
    refine absurd ?_ hne
    cases hen : s.lct.en with
    | true => rw [lctAfter_pulse_enabled si hen, Lct.exchange_rxv, hs, ite_self]
    | false => rw [lctAfter_pulse_disabled si hen]
  | _ => exact absurd rfl hne

/-- TXP rises only at a write of LCT_TXDATA (R42). -/
theorem txp_rises {i : Instr} {s : State} (hs : s.lct.txp = false) (h : (lctAfter i s).txp = true) :
    ∃ v, i = .wrLctTxdata v := by
  have hne : (lctAfter i s).txp ≠ false := by simp [h]
  cases i with
  | wrLctTxdata v => exact ⟨v, rfl⟩
  | wrLctCtrl v => exact absurd (Lct.writeCtrl_txp hs v) hne
  | wrLctReset | wrLctClear => exact absurd rfl hne
  | pulse si =>
    refine absurd ?_ hne
    cases hen : s.lct.en with
    | true => rw [lctAfter_pulse_enabled si hen, Lct.exchange_txp, hs, ite_self]
    | false => rw [lctAfter_pulse_disabled si hen, hs]
  | _ => exact absurd hs hne

/-- TXP falls only at a word's start, a reset, a clear or a width change (R42). -/
theorem txp_falls {i : Instr} {s : State} (hs : s.lct.txp = true) (h : (lctAfter i s).txp = false) :
    (∃ si, i = .pulse si ∧ s.lct.en = true ∧ s.lct.bitcnt = 0) ∨ (∃ v, i = .wrLctReset v) ∨
      (∃ v, i = .wrLctClear v) ∨ (∃ v, i = .wrLctCtrl v ∧ v.getLsbD 1 ≠ s.lct.w32) := by
  have hne : (lctAfter i s).txp ≠ s.lct.txp := by simp [h, hs]
  cases i with
  | wrLctTxdata v => exact absurd hs.symm hne
  | wrLctReset v => exact .inr (.inl ⟨v, rfl⟩)
  | wrLctClear v => exact .inr (.inr (.inl ⟨v, rfl⟩))
  | wrLctCtrl v => exact .inr (.inr (.inr ⟨v, rfl, fun hw => let ⟨_, _, htxp⟩ := Lct.writeCtrl_keeps hw; hne htxp⟩))
  | pulse si =>
    cases hen : s.lct.en with
    | true =>
      refine .inl ⟨si, rfl, rfl, ?_⟩
      by_contra h0
      rw [lctAfter_pulse_enabled si hen, Lct.exchange_txp, if_neg h0] at hne
      exact hne rfl
    | false => exact absurd (congrArg Lct.txp (lctAfter_pulse_disabled si hen)) hne
  | _ => exact absurd rfl hne

/-- Settles O33: one lemma for each change. -/
theorem transportFlagsMoveOnlyByTheirEvents : Obligations.TransportFlagsMoveOnlyByTheirEvents := by
  intro i s t h
  rw [lct_of_exec h]
  exact ⟨bitcnt_changes, rxv_rises, rxv_falls, txp_rises, txp_falls⟩

/-! ### The host's procedures on the control register (R110, R114, R116) -/

/-- A write of LCT_CTRL's own word with bit 1 replaced keeps EN and IE (R76, R114). -/
theorem ctrlWord_with_width (l : Lct) (b : Bool) :
    enField ((ctrlWord l &&& 0x5) ||| (if b then 0x2 else 0x0)) = l.en ∧
      w32Field ((ctrlWord l &&& 0x5) ||| (if b then 0x2 else 0x0)) = b ∧
      ieField ((ctrlWord l &&& 0x5) ||| (if b then 0x2 else 0x0)) = l.ie := by
  unfold ctrlWord
  cases l.en <;> cases l.w32 <;> cases l.ie <;> cases b <;> decide

/-- SET_WORD_WIDTH is one write of LCT_CTRL, of the word read with bit 1 replaced (R114). -/
theorem procSetWordWidth_eq (b : Bool) (s : State) :
    procSetWordWidth b s =
      some (s.setLct (s.lct.writeCtrl ((ctrlWord s.lct &&& 0x5) ||| (if b then 0x2 else 0x0)))).done := by
  rw [procSetWordWidth, access_of_exec (exec_rdLctCtrl s)]
  exact accesses_cons (exec_wrLctCtrl _ _)

/-- Settles O59: the write keeps or changes the width, as R103 has it. -/
theorem setWordWidthKeepsOtherControls : Obligations.SetWordWidthKeepsOtherControls := by
  intro b s
  obtain ⟨hen, hw, hie⟩ := ctrlWord_with_width s.lct b
  refine ⟨_, procSetWordWidth_eq b s, rfl, ?_⟩
  rw [State.done_lct, State.setLct_lct]
  by_cases h : b = s.lct.w32
  · rw [Lct.writeCtrl_same (hw.trans h), if_pos h, hen, hw, hie, h]
  · rw [Lct.writeCtrl_change (by rwa [hw]), if_neg h, hen, hw, hie]
    rfl

/-- INITIALIZE as one change of the transport (R110). -/
theorem accesses_procInitialize (s : State) :
    accesses procInitialize s =
      some (s.setLct (((s.lct.writeCtrl 0x0).transportReset).writeCtrl 0x5)).done := by
  rw [procInitialize, accesses_cons (exec_wrLctCtrl _ _), accesses_cons (exec_wrLctReset _ _),
    accesses_cons (exec_wrLctCtrl _ _)]
  rfl

/-- TEARDOWN as one change of the transport (R116). -/
theorem accesses_procTeardown (s : State) :
    accesses procTeardown s = some (s.setLct (s.lct.writeCtrl 0x0).clearBuffers).done := by
  rw [procTeardown, accesses_cons (exec_wrLctCtrl _ _), accesses_cons (exec_wrLctClear _ _)]
  rfl

/-- Settles O58: the reset clears whatever the first write left, and the clear drops both words. -/
theorem initializeArmsAndTeardownDisarms : Obligations.InitializeArmsAndTeardownDisarms :=
  fun s => ⟨⟨_, accesses_procInitialize s, rfl, rfl⟩,
    _, accesses_procTeardown s, rfl, rfl, rfl, rfl, rfl, rfl, rfl, rfl⟩

end Sys2Proof.Machine

/-! PROOF. 40_transport.md, continued: a whole word (R72, R120, R123, R124, R126), by what the operations of one word do
together, and the polling host (R117). -/

namespace Sys2Proof.Machine

/-! ### Words as bits, most significant first (R72, R124) -/

/-- The first `n` bits that leave a shift register with contents `x`, from bit 31 (R37, R120). -/
def sentBits (x : Word) : Nat → List Bool
  | 0 => []
  | n + 1 => x.getLsbD 31 :: sentBits (x <<< 1) n

/-- The bits sent go on where the shifted register stands. -/
theorem sentBits_add (x : Word) (m n : Nat) : sentBits x (m + n) = sentBits x m ++ sentBits (x <<< m) n := by
  induction m generalizing x with
  | zero => simp [sentBits]
  | succ m ih =>
    rw [Nat.succ_add, sentBits, sentBits, ih, List.cons_append, ← BitVec.shiftLeft_add, Nat.add_comm 1 m]

/-- A register with an `n`-bit word at its top sends that word, most significant bit first. -/
theorem sentBits_shiftLeft (x : Word) {n : Nat} (hn : n ≤ 32) : sentBits (x <<< (32 - n)) n = bitsOfWord x n := by
  induction n with
  | zero => rfl
  | succ n ih =>
    have htop : (x <<< (32 - (n + 1))).getLsbD 31 = x.getLsbD n := by
      rw [BitVec.getLsbD_shiftLeft]
      simp only [show ¬ 31 < 32 - (n + 1) by omega, show 31 - (32 - (n + 1)) = n by omega]
      simp
    rw [sentBits, bitsOfWord, htop, ← BitVec.shiftLeft_add, show 32 - (n + 1) + 1 = 32 - n by omega, ih (by omega)]

/-- An aligned word goes out most significant bit first (R106, R124). -/
theorem sentBits_align (x : Word) {w : Nat} (hw : w ≤ 32) : sentBits (align w x) w = bitsOfWord x w := by
  rw [align_eq_shiftLeft hw, sentBits_shiftLeft x hw]

/-- An aligned word is out after as many bits as the width (R106). -/
theorem align_shiftLeft (x : Word) {w : Nat} (hw : w ≤ 32) : align w x <<< w = 0 :=
  shiftLeft_eq_zero_of_and_mask (align_and_mask hw x)

/-- Bits that arrive after others follow them, one place lower each (R72). -/
theorem wordOfBits_append (as bs : List Bool) :
    wordOfBits (as ++ bs) = wordOfBits as <<< bs.length ||| wordOfBits bs := by
  induction as with
  | nil => simp [wordOfBits]
  | cons a as ih =>
    rw [List.cons_append, wordOfBits, wordOfBits, ih, List.length_append, BitVec.shiftLeft_or_distrib,
      ← BitVec.shiftLeft_add, BitVec.or_assoc]

/-- A word of some bits has none above them. -/
theorem getLsbD_wordOfBits_of_le {bs : List Bool} {i : Nat} (h : bs.length ≤ i) :
    (wordOfBits bs).getLsbD i = false := by
  induction bs with
  | nil => simp [wordOfBits]
  | cons b bs ih =>
    have hlt : bs.length < i := h
    rw [wordOfBits, BitVec.getLsbD_or, ih (Nat.le_of_lt hlt), BitVec.getLsbD_shiftLeft, zextBit_getLsbD]
    simp [show i - bs.length ≠ 0 by omega]

/-- After as many bits as the width, the masked receive register holds those bits and none received before (R120). -/
theorem received_word (r : Word) {bs : List Bool} (h : bs.length ≤ 32) :
    (r <<< bs.length ||| wordOfBits bs) &&& mask bs.length = wordOfBits bs := by
  apply BitVec.eq_of_getLsbD_eq
  intro i _
  rw [BitVec.getLsbD_and, BitVec.getLsbD_or, BitVec.getLsbD_shiftLeft, getLsbD_mask _ _ h]
  by_cases hi : i < bs.length
  · simp [hi]
  · simp [hi, getLsbD_wordOfBits_of_le (Nat.le_of_not_lt hi)]

/-! ### Operations that leave the word in progress alone -/

/-- The operation is no write of LCT_CTRL, LCT_RESET or LCT_CLEAR: it leaves the word in progress to the pulses. -/
def KeepsWord (i : Instr) : Prop := ∀ v, i ≠ .wrLctCtrl v ∧ i ≠ .wrLctReset v ∧ i ≠ .wrLctClear v

/-- Nor is it a write of LCT_TXDATA: it leaves the pending word to the pulses. -/
def KeepsPending (i : Instr) : Prop := KeepsWord i ∧ ∀ v, i ≠ .wrLctTxdata v

/-- A pulse is none of the four writes. -/
theorem keepsPending_pulse (si : Bool) : KeepsPending (.pulse si) := ⟨fun _ => by simp, fun _ => by simp⟩

/-- A host access that is none of the three writes changes at most RXV, TXP and TXBUF: RXV at a read of LCT_RXDATA, the
pending word at a write of LCT_TXDATA. -/
theorem lctAfter_access {i : Instr} (hp : ∀ si, i ≠ .pulse si) (hk : KeepsWord i) (s : State) :
    ∃ v p b, lctAfter i s = { s.lct with rxv := v, txp := p, txbuf := b } ∧
      (i ≠ .rdLctRxdata → v = s.lct.rxv) ∧
      ((∀ w, i ≠ .wrLctTxdata w) → p = s.lct.txp ∧ b = s.lct.txbuf) := by
  cases i with
  | pulse si => exact absurd rfl (hp si)
  | wrLctCtrl v | wrLctReset v | wrLctClear v =>
    obtain ⟨hctrl, hreset, hclear⟩ := hk v
    contradiction
  | rdLctRxdata => exact ⟨false, _, _, rfl, fun h => absurd rfl h, fun _ => ⟨rfl, rfl⟩⟩
  | wrLctTxdata w => exact ⟨_, true, _, rfl, fun _ => rfl, fun h => absurd rfl (h w)⟩
  | _ => exact ⟨_, _, _, rfl, fun _ => rfl, fun _ => ⟨rfl, rfl⟩⟩

/-- A host access brings no input bit. -/
theorem pulseBits_access {i : Instr} (hp : ∀ si, i ≠ .pulse si) (is : List Instr) :
    pulseBits (i :: is) = pulseBits is := by
  cases i with
  | pulse si => exact absurd rfl (hp si)
  | _ => rfl

/-- A host access drives no bit on SO (R9). -/
theorem serialBits_access {i : Instr} (hp : ∀ si, i ≠ .pulse si) (s : State) : serialBits [outAfter i s] = [] := by
  cases i with
  | pulse si => exact absurd rfl (hp si)
  | _ => rfl

/-! ### The operations of one word together -/

/-- What operations within one word do together: from `s` to `t`, the answers being `outs`. The pulses among them send
the top of TXSR and shift in their input bits; the pulse that ends the word stores it (R120). The accesses among them
move RXV and the pending word, as R101 and R102 say. -/
structure WordRun (s : State) (is : List Instr) (outs : List Output) (t : State) : Prop where
  en : t.lct.en = s.lct.en
  w32 : t.lct.w32 = s.lct.w32
  ie : t.lct.ie = s.lct.ie
  draws : t.draws = s.draws
  serial : serialBits outs = sentBits s.lct.txsr (pulseBits is).length
  bitcnt : t.lct.bitcnt.toNat = (s.lct.bitcnt.toNat + (pulseBits is).length) % s.lct.width
  txsr : t.lct.txsr = s.lct.txsr <<< (pulseBits is).length
  rxsr : t.lct.rxsr = s.lct.rxsr <<< (pulseBits is).length ||| wordOfBits (pulseBits is)
  rxbuf : t.lct.rxbuf = if s.lct.bitcnt.toNat + (pulseBits is).length = s.lct.width
    then t.lct.rxsr &&& mask s.lct.width else s.lct.rxbuf
  rxv : .rdLctRxdata ∉ is →
    t.lct.rxv = (s.lct.rxv || decide (s.lct.bitcnt.toNat + (pulseBits is).length = s.lct.width))
  pending : (∀ v, .wrLctTxdata v ∉ is) → t.lct.txp = s.lct.txp ∧ t.lct.txbuf = s.lct.txbuf

/-- The width stays within a word. -/
theorem WordRun.width {s t : State} {is : List Instr} {outs : List Output} (h : WordRun s is outs t) :
    t.lct.width = s.lct.width := Lct.width_congr h.w32

/-- No operations do nothing. -/
theorem WordRun.nil {s : State} (hk : s.lct.bitcntInRange) : WordRun s [] [] s where
  en := rfl
  w32 := rfl
  ie := rfl
  draws := rfl
  serial := rfl
  bitcnt := (Nat.mod_eq_of_lt hk).symm
  txsr := (BitVec.shiftLeft_zero _).symm
  rxsr := by simp [pulseBits, wordOfBits]
  rxbuf := (if_neg (Nat.ne_of_lt hk)).symm
  rxv _ := by simp [pulseBits, Nat.ne_of_lt hk]
  pending _ := ⟨rfl, rfl⟩

/-- One access: it may move RXV and the pending word. -/
theorem WordRun.of_access {i : Instr} {o : Output} {s t : State} {v p : Bool} {b : Word}
    (hi : ∀ si, i ≠ .pulse si) (ho : serialBits [o] = []) (hk : s.lct.bitcntInRange)
    (hl : t.lct = { s.lct with rxv := v, txp := p, txbuf := b }) (hd : t.draws = s.draws)
    (hv : i ≠ .rdLctRxdata → v = s.lct.rxv)
    (hb : (∀ w, i ≠ .wrLctTxdata w) → p = s.lct.txp ∧ b = s.lct.txbuf) : WordRun s [i] [o] t where
  en := by rw [hl]
  w32 := by rw [hl]
  ie := by rw [hl]
  draws := hd
  serial := by rw [pulseBits_access hi, ho]; rfl
  bitcnt := by rw [pulseBits_access hi, hl]; exact (Nat.mod_eq_of_lt hk).symm
  txsr := by rw [pulseBits_access hi, hl]; exact (BitVec.shiftLeft_zero _).symm
  rxsr := by rw [pulseBits_access hi, hl]; simp [pulseBits, wordOfBits]
  rxbuf := by rw [pulseBits_access hi, hl]; exact (if_neg (Nat.ne_of_lt hk)).symm
  rxv h := by
    rw [pulseBits_access hi, hl]
    simpa [pulseBits, Nat.ne_of_lt hk] using hv fun he => h (he ▸ List.mem_singleton_self _)
  pending h := by
    rw [hl]
    exact hb fun w he => h w (he ▸ List.mem_singleton_self _)

/-- Any number of whole words from a word's start ends at a word's start. -/
theorem WordRun.bitcnt_eq_zero {s t : State} {is : List Instr} {outs : List Output} (h : WordRun s is outs t)
    (hn : s.lct.width ∣ s.lct.bitcnt.toNat + (pulseBits is).length) : t.lct.bitcnt = 0 :=
  BitVec.eq_of_toNat_eq (h.bitcnt.trans (Nat.mod_eq_zero_of_dvd hn))

/-- BITCNT stays below the width. -/
theorem WordRun.inRange {s t : State} {is : List Instr} {outs : List Output} (h : WordRun s is outs t) :
    t.lct.bitcntInRange := by
  have hpos := s.lct.width_pos
  rw [Lct.bitcntInRange, h.bitcnt, h.width]
  exact Nat.mod_lt _ (by omega)

/-- What is left of the word: pulses that fit it still do, and once it has ended none is left. -/
theorem WordRun.rest {s t : State} {is js : List Instr} {outs : List Output} (h : WordRun s is outs t)
    (hle : s.lct.bitcnt.toNat + ((pulseBits is).length + (pulseBits js).length) ≤ s.lct.width)
    (hbegun : s.lct.bitcnt.toNat + (pulseBits is).length = 0 → (pulseBits js).length = 0) :
    t.lct.bitcnt.toNat + (pulseBits js).length ≤ t.lct.width ∧
      (t.lct.bitcnt.toNat = 0 → (pulseBits js).length = 0) := by
  rw [h.bitcnt, h.width]
  by_cases he : s.lct.bitcnt.toNat + (pulseBits is).length = s.lct.width
  · rw [he, Nat.mod_self]
    omega
  · rw [Nat.mod_eq_of_lt (by omega)]
    omega

/-- One word's operations in two parts. -/
theorem WordRun.trans {s t u : State} {is js : List Instr} {os ps : List Output} (h : WordRun s is os t)
    (h' : WordRun t js ps u)
    (hle : s.lct.bitcnt.toNat + (pulseBits is).length + (pulseBits js).length ≤ s.lct.width) :
    WordRun s (is ++ js) (os ++ ps) u := by
  have hpos := s.lct.width_pos
  have hwidth := h.width
  have hends : t.lct.bitcnt.toNat + (pulseBits js).length = s.lct.width ↔
      s.lct.bitcnt.toNat + (pulseBits is).length ≠ s.lct.width ∧
        s.lct.bitcnt.toNat + ((pulseBits is).length + (pulseBits js).length) = s.lct.width := by
    rw [h.bitcnt]
    by_cases he : s.lct.bitcnt.toNat + (pulseBits is).length = s.lct.width
    · rw [he, Nat.mod_self]
      omega
    · rw [Nat.mod_eq_of_lt (by omega)]
      omega
  have hlen : (pulseBits (is ++ js)).length = (pulseBits is).length + (pulseBits js).length := by
    rw [pulseBits_append, List.length_append]
  constructor
  case en => exact h'.en.trans h.en
  case w32 => exact h'.w32.trans h.w32
  case ie => exact h'.ie.trans h.ie
  case draws => exact h'.draws.trans h.draws
  case serial => rw [hlen, serialBits_append, h.serial, h'.serial, h.txsr, sentBits_add]
  case bitcnt => rw [hlen, h'.bitcnt, h.bitcnt, hwidth, Nat.mod_add_mod, Nat.add_assoc]
  case txsr => rw [hlen, h'.txsr, h.txsr, BitVec.shiftLeft_add]
  case rxsr =>
    rw [hlen, h'.rxsr, h.rxsr, pulseBits_append, wordOfBits_append, BitVec.shiftLeft_or_distrib,
      BitVec.shiftLeft_add, BitVec.or_assoc]
  case rxbuf =>
    rw [hlen, h'.rxbuf, hwidth]
    by_cases he : s.lct.bitcnt.toNat + (pulseBits is).length = s.lct.width
    · have hnone : pulseBits js = [] := List.eq_nil_of_length_eq_zero (by omega)
      have hkept : u.lct.rxsr = t.lct.rxsr := by rw [h'.rxsr, hnone]; simp [wordOfBits]
      rw [if_neg (fun h => (hends.mp h).1 he), h.rxbuf, if_pos he, hkept, hnone, List.length_nil, Nat.add_zero,
        if_pos he]
    · rw [h.rxbuf, if_neg he]
      simp only [hends, ne_eq, he, not_false_eq_true, true_and]
  case rxv =>
    intro hno
    obtain ⟨hi, hj⟩ := not_or.mp (mt List.mem_append.mpr hno)
    rw [hlen, h'.rxv hj, h.rxv hi, hwidth, Bool.or_assoc]
    by_cases he : s.lct.bitcnt.toNat + (pulseBits is).length = s.lct.width
    · have hall : s.lct.bitcnt.toNat + ((pulseBits is).length + (pulseBits js).length) = s.lct.width := by omega
      simp [he, hall]
    · simp [hends, he]
  case pending =>
    intro hno
    obtain ⟨htxp, htxbuf⟩ := h.pending fun v hv => hno v (List.mem_append_left js hv)
    obtain ⟨htxp', htxbuf'⟩ := h'.pending fun v hv => hno v (List.mem_append_right is hv)
    exact ⟨htxp'.trans htxp, htxbuf'.trans htxbuf⟩

/-! ### One operation, and the operations of one word -/

/-- The state as the next pulse shifts it (`t` of R120): at a word's start the pending word, or an idle one, is in TXSR,
and the draw is counted. -/
def State.loadWord (s : State) : State :=
  { s with
    lct := { s.lct with
      txp := if s.lct.bitcnt = 0 then false else s.lct.txp
      txsr := s.lct.shiftSource (Config.idleTxWord s.draws) }
    draws := if s.lct.underruns then s.draws + 1 else s.draws }

/-- Within a word there is nothing to load. -/
theorem State.loadWord_within {s : State} (h : s.lct.bitcnt.toNat ≠ 0) : s.loadWord = s := by
  have h0 : s.lct.bitcnt ≠ 0 := fun h0 => h (congrArg BitVec.toNat h0)
  have hs : s.lct.underruns = false := by
    rw [Lct.underruns, Bool.eq_false_iff.mpr (mt s.lct.startsWord_iff.mp h0), Bool.false_and]
  rw [State.loadWord, Lct.shiftSource_eq, hs, if_neg h0, if_neg h0]
  rfl

@[simp] theorem State.loadWord_bitcnt (s : State) : s.loadWord.lct.bitcnt = s.lct.bitcnt := rfl
@[simp] theorem State.loadWord_width (s : State) : s.loadWord.lct.width = s.lct.width := rfl

/-- The word a word's first pulse loads: the pending one. -/
theorem State.loadWord_txsr_pending {s : State} (h : s.lct.bitcnt = 0) (hp : s.lct.txp = true) :
    s.loadWord.lct.txsr = s.lct.txbuf := by
  change s.lct.shiftSource _ = _
  rw [Lct.shiftSource_eq, if_pos h, if_pos hp]

/-- One pulse while `EN = 1`, of the word loaded. -/
theorem WordRun.of_pulse {si : Bool} {s t : State} (hen : s.lct.en = true) (hk : s.lct.bitcntInRange)
    (h : exec (.pulse si) s = .next t) : WordRun s.loadWord [.pulse si] [t.out] t := by
  have hpos := s.lct.width_pos
  have hle := s.lct.width_le
  obtain rfl : s.pulseEnabled si = t := by
    rw [exec_pulse_enabled si hen] at h
    injection h
  have hlast : s.lct.bitcnt.toNat + 1 = s.lct.width ↔ s.lct.bitcnt.toNat = s.lct.width - 1 := by omega
  constructor
  case en => exact Lct.exchange_en _ _ _
  case w32 => exact Lct.exchange_w32 _ _ _
  case ie => exact Lct.exchange_ie _ _ _
  case draws => rfl
  case serial => rfl
  case bitcnt =>
    change (s.lct.exchange _ si).bitcnt.toNat = (s.lct.bitcnt.toNat + 1) % s.lct.width
    rw [Lct.exchange_eq]
    by_cases he : s.lct.bitcnt.toNat = s.lct.width - 1
    · simp only [if_pos he, hlast.mpr he, Nat.mod_self]
      rfl
    · simp only [if_neg he]
      rw [Nat.mod_eq_of_lt (by omega)]
      bv_omega
  case txsr =>
    change (s.lct.exchange _ si).txsr = s.lct.shiftSource _ <<< 1
    rw [Lct.exchange_eq]
  case rxsr =>
    change (s.lct.exchange _ si).rxsr = s.lct.rxsr <<< 1 ||| wordOfBits [si]
    rw [Lct.exchange_eq]
    simp [Lct.shiftedIn, wordOfBits]
  case rxbuf =>
    change (s.lct.exchange _ si).rxbuf =
      if s.lct.bitcnt.toNat + 1 = s.lct.width then (s.lct.exchange _ si).rxsr &&& mask s.lct.width else s.lct.rxbuf
    rw [Lct.exchange_eq]
    simp only [hlast]
  case rxv =>
    intro _
    change (s.lct.exchange _ si).rxv = (s.lct.rxv || decide (s.lct.bitcnt.toNat + 1 = s.lct.width))
    rw [Lct.exchange_rxv]
    by_cases he : s.lct.bitcnt.toNat = s.lct.width - 1
    · rw [if_pos he, decide_eq_true (hlast.mpr he), Bool.or_true]
    · rw [if_neg he, decide_eq_false (mt hlast.mp he), Bool.or_false]
  case pending =>
    intro _
    exact ⟨Lct.exchange_txp _ _ _, Lct.exchange_txbuf _ _ _⟩

/-- One access while a word may be in progress. -/
theorem WordRun.of_access_exec {i : Instr} {s t : State} (hi : ∀ si, i ≠ .pulse si) (hkeep : KeepsWord i)
    (hk : s.lct.bitcntInRange) (h : exec i s = .next t) : WordRun s [i] [t.out] t := by
  obtain ⟨v, p, b, hl, hv, hb⟩ := lctAfter_access hi hkeep s
  rw [← lct_of_exec h] at hl
  have ho : serialBits [t.out] = [] := by rw [eq_of_exec h]; exact serialBits_access hi s
  exact WordRun.of_access hi ho hk hl ((cas_draws_of_exec h).2.trans (drawsAfter_of_ne_pulse hi s)) hv hb

/-- One access before a word's first pulse, seen from the word that pulse loads. -/
theorem WordRun.of_access_before {i : Instr} {s t : State} (hi : ∀ si, i ≠ .pulse si) (hkeep : KeepsPending i)
    (hk : s.lct.bitcntInRange) (h : exec i s = .next t) : WordRun s.loadWord [i] [t.out] t.loadWord := by
  obtain ⟨v, p, b, hl, hv, hb⟩ := lctAfter_access hi hkeep.1 s
  obtain ⟨rfl, rfl⟩ := hb hkeep.2
  rw [← lct_of_exec h] at hl
  have hd : t.draws = s.draws := (cas_draws_of_exec h).2.trans (drawsAfter_of_ne_pulse hi s)
  have ho : serialBits [t.out] = [] := by rw [eq_of_exec h]; exact serialBits_access hi s
  refine WordRun.of_access (v := v) hi ho hk ?_ ?_ hv fun _ => ⟨rfl, rfl⟩
  · simp only [State.loadWord, hl, hd]
    rfl
  · simp only [State.loadWord, hl, hd]
    rfl

/-- A word's operations, from its second pulse on or after it: `BITCNT` says how many bits are left, and none is begun. -/
theorem runOps_within {is : List Instr} {s : State} (hen : s.lct.en = true) (hk : s.lct.bitcntInRange)
    (hkeep : ∀ i ∈ is, KeepsWord i) (hle : s.lct.bitcnt.toNat + (pulseBits is).length ≤ s.lct.width)
    (hstart : s.lct.bitcnt.toNat = 0 → (pulseBits is).length = 0) :
    ∃ outs t, runOps is s = some (outs, t) ∧ WordRun s is outs t := by
  induction is generalizing s with
  | nil => exact ⟨[], s, rfl, WordRun.nil hk⟩
  | cons i is ih =>
    obtain ⟨hi, his⟩ := List.forall_mem_cons.mp hkeep
    obtain ⟨u, hu⟩ := exec_completes i s
    have hlen : (pulseBits (i :: is)).length = (pulseBits [i]).length + (pulseBits is).length := by
      rw [← List.length_append, ← pulseBits_append, List.singleton_append]
    have hone : WordRun s [i] [u.out] u := by
      by_cases hp : ∃ si, i = .pulse si
      · obtain ⟨si, rfl⟩ := hp
        have hwithin : s.lct.bitcnt.toNat ≠ 0 := fun h0 => Nat.succ_ne_zero _ (hstart h0)
        simpa only [State.loadWord_within hwithin] using WordRun.of_pulse hen hk hu
      · exact WordRun.of_access_exec (not_exists.mp hp) hi hk hu
    rw [hlen] at hle hstart
    obtain ⟨hle', hstart'⟩ := hone.rest hle (by omega)
    obtain ⟨outs, t, hrun, hword⟩ := ih (hone.en.trans hen) hone.inRange his hle' hstart'
    exact ⟨_, t, runOps_cons hu hrun, hone.trans hword (by omega)⟩

/-- A word's operations from its first pulse on. -/
theorem runOps_from_pulse {si : Bool} {is : List Instr} {s : State} (hen : s.lct.en = true) (hb : s.lct.bitcnt = 0)
    (hkeep : ∀ i ∈ is, KeepsWord i) (hle : (pulseBits is).length + 1 ≤ s.lct.width) :
    ∃ outs t, runOps (.pulse si :: is) s = some (outs, t) ∧ WordRun s.loadWord (.pulse si :: is) outs t := by
  have hk := Lct.bitcntInRange_of_zero hb
  have hb' : s.loadWord.lct.bitcnt.toNat = 0 := congrArg BitVec.toNat hb
  have hone : (pulseBits [.pulse si]).length = 1 := rfl
  have hw : s.loadWord.lct.width = s.lct.width := rfl
  obtain ⟨u, hu⟩ := exec_completes (.pulse si) s
  have hfirst := WordRun.of_pulse hen hk hu
  obtain ⟨hle', hstart⟩ := hfirst.rest (js := is) (by omega) (by omega)
  obtain ⟨outs, t, hrun, hword⟩ := runOps_within (hfirst.en.trans hen) hfirst.inRange hkeep hle' hstart
  exact ⟨_, t, runOps_cons hu hrun, hfirst.trans hword (by omega)⟩

/-- A word's operations with any accesses before its first pulse that leave the pending word alone. -/
theorem runOps_word {is : List Instr} {s : State} (hen : s.lct.en = true) (hb : s.lct.bitcnt = 0)
    (hkeep : ∀ i ∈ is, KeepsPending i) (hpos : 1 ≤ (pulseBits is).length)
    (hle : (pulseBits is).length ≤ s.lct.width) :
    ∃ outs t, runOps is s = some (outs, t) ∧ WordRun s.loadWord is outs t := by
  induction is generalizing s with
  | nil => exact absurd hpos (Nat.not_succ_le_zero 0)
  | cons i is ih =>
    obtain ⟨hi, his⟩ := List.forall_mem_cons.mp hkeep
    by_cases hp : ∃ si, i = .pulse si
    · obtain ⟨si, rfl⟩ := hp
      exact runOps_from_pulse hen hb (fun j hj => (his j hj).1) hle
    · have hi' := not_exists.mp hp
      obtain ⟨u, hu⟩ := exec_completes i s
      rw [pulseBits_access hi'] at hpos hle
      have hacc := WordRun.of_access_before hi' hi (Lct.bitcntInRange_of_zero hb) hu
      have hlen : (pulseBits [i]).length = 0 := congrArg List.length (pulseBits_access hi' [])
      have hb' : u.lct.bitcnt = 0 := hacc.bitcnt_eq_zero (by simp [hb, hlen])
      obtain ⟨outs, t, hrun, hword⟩ := ih (s := u) (hacc.en.trans hen) hb' his hpos (hle.trans_eq hacc.width.symm)
      refine ⟨_, t, runOps_cons hu hrun, hacc.trans hword ?_⟩
      rw [hlen, State.loadWord_bitcnt, hb]
      exact (Nat.zero_add _).trans_le hle

/-! ### The statements on whole words (R123, R124, R126) -/

/-- Exactly a word: what it sends, what it receives, and where it leaves the framing (R124). -/
theorem WordRun.whole {s t : State} {is : List Instr} {outs : List Output} (h : WordRun s is outs t)
    (hb : s.lct.bitcnt = 0) (hn : (pulseBits is).length = s.lct.width) :
    serialBits outs = sentBits s.lct.txsr s.lct.width ∧ t.lct.rxbuf = wordOfBits (pulseBits is) ∧ t.lct.bitcnt = 0 := by
  have hall : s.lct.bitcnt.toNat + (pulseBits is).length = s.lct.width := by simp [hb, hn]
  refine ⟨hn ▸ h.serial, ?_, h.bitcnt_eq_zero (dvd_of_eq hall.symm)⟩
  rw [h.rxbuf, if_pos hall, h.rxsr, ← hn]
  exact received_word _ (hn ▸ s.lct.width_le)

/-- Settles O24: the first pulse loads the pending word, no access within the word touches its registers, and the last
pulse, after which nothing reads LCT_RXDATA, sets RXV. -/
theorem wholeWordGoesMostSignificantBitFirst : Obligations.WholeWordGoesMostSignificantBitFirst := by
  intro s x first last mid hen hb htxp htxbuf hkeep hlen
  have hmid : ∀ i ∈ mid, KeepsWord i := fun i hi v =>
    let ⟨_, _, _, hctrl, hreset, hclear⟩ := hkeep i hi v
    ⟨hctrl, hreset, hclear⟩
  have hbits : pulseBits (.pulse first :: mid ++ [.pulse last]) = first :: pulseBits mid ++ [last] :=
    pulseBits_append _ _
  have hmidlen : (pulseBits mid).length + 1 + 1 = s.lct.width := by
    rw [hbits] at hlen
    simpa using hlen
  have hpos := s.lct.width_pos
  obtain ⟨outs, t, hrun, hword⟩ := runOps_from_pulse (si := first) hen hb hmid (by omega)
  have hcount : t.lct.bitcnt.toNat + 1 = s.lct.width := by
    rw [hword.bitcnt, State.loadWord_bitcnt, State.loadWord_width, hb, pulseBits, List.length_cons,
      show (0 : BitVec 5).toNat = 0 from rfl, Nat.zero_add, Nat.mod_eq_of_lt (by omega), hmidlen]
  obtain ⟨u, hu⟩ := exec_completes (.pulse last) t
  have hlast := WordRun.of_pulse (hword.en.trans hen) hword.inRange hu
  rw [State.loadWord_within (by omega)] at hlast
  have hall := hword.trans hlast (by simp [hb, pulseBits, hmidlen])
  obtain ⟨hserial, hrxbuf, hbitcnt⟩ := hall.whole hb hlen
  refine ⟨_, u, runOps_trans hrun (runOps_cons hu rfl), ?_, hrxbuf, ?_, hbitcnt⟩
  · rw [hserial, State.loadWord_txsr_pending hb htxp, htxbuf]
    exact sentBits_align x s.lct.width_le
  · rw [hlast.rxv (by simp), hword.width]
    simp [pulseBits, hcount]

/-- A word pending at a word's start goes out in that word (R124). -/
theorem runOps_sends_pending {is : List Instr} {s : State} {x : Word} (hen : s.lct.en = true) (hb : s.lct.bitcnt = 0)
    (htxp : s.lct.txp = true) (htxbuf : s.lct.txbuf = align s.lct.width x) (hkeep : ∀ i ∈ is, KeepsPending i)
    (hn : (pulseBits is).length = s.lct.width) :
    ∃ outs t, runOps is s = some (outs, t) ∧ serialBits outs = bitsOfWord x s.lct.width := by
  have hpos := s.lct.width_pos
  obtain ⟨outs, t, hrun, hword⟩ := runOps_word hen hb hkeep (by omega) hn.le
  obtain ⟨hserial, _, _⟩ := hword.whole hb hn
  refine ⟨outs, t, hrun, ?_⟩
  rw [hserial, State.loadWord_txsr_pending hb htxp, htxbuf]
  exact sentBits_align x s.lct.width_le

/-- A write of LCT_TXDATA within a word changes nothing of what the rest of the word sends, and its word is pending when
the word ends (R126). -/
theorem runOps_within_send {is : List Instr} {s : State} (x : Word) (hen : s.lct.en = true)
    (hk : s.lct.bitcntInRange) (hkeep : ∀ i ∈ is, KeepsPending i)
    (hle : s.lct.bitcnt.toNat + (pulseBits is).length ≤ s.lct.width)
    (hstart : s.lct.bitcnt.toNat = 0 → (pulseBits is).length = 0)
    (hends : s.lct.width ∣ s.lct.bitcnt.toNat + (pulseBits is).length) :
    ∃ outs t outs' t', runOps is s = some (outs, t) ∧ runOps is (s.setLct (s.lct.sendWord x)).done = some (outs', t') ∧
      serialBits outs' = serialBits outs ∧ t'.lct.en = true ∧ t'.lct.width = s.lct.width ∧ t'.lct.bitcnt = 0 ∧
      t'.lct.txp = true ∧ t'.lct.txbuf = align s.lct.width x := by
  have hword : ∀ i ∈ is, KeepsWord i := fun i hi => (hkeep i hi).1
  obtain ⟨outs, t, hrun, h⟩ := runOps_within hen hk hword hle hstart
  obtain ⟨outs', t', hrun', h'⟩ := runOps_within (s := (s.setLct (s.lct.sendWord x)).done) hen hk hword hle hstart
  obtain ⟨htxp, htxbuf⟩ := h'.pending fun v hv => (hkeep _ hv).2 v rfl
  exact ⟨outs, t, outs', t', hrun, hrun', h'.serial.trans h.serial.symm, h'.en.trans hen, h'.width,
    h'.bitcnt_eq_zero hends, htxp, htxbuf⟩

/-- Settles O26: a word written before word n's first pulse is the one it loads; one written after it waits, the rest of
word n going out of TXSR, for the first pulse of word n + 1. -/
theorem sendGoesOutAtNextWordStart : Obligations.SendGoesOutAtNextWordStart := by
  intro s x pre post next hen hb hkeep hpre hn hnext
  have hkeeps : ∀ i ∈ pre ++ post ++ next, KeepsPending i := fun i hi =>
    ⟨fun v => let ⟨_, hctrl, hreset, hclear⟩ := hkeep i hi v; ⟨hctrl, hreset, hclear⟩,
      fun v => let ⟨hsend, _⟩ := hkeep i hi v; hsend⟩
  obtain ⟨hkword, hknext⟩ := List.forall_mem_append.mp hkeeps
  obtain ⟨hkpre, hkpost⟩ := List.forall_mem_append.mp hkword
  constructor
  · have hlen : (pulseBits (pre ++ post)).length = s.lct.width := by rw [pulseBits_append, List.length_append, hn]
    obtain ⟨outs, t, hrun, hserial⟩ := runOps_sends_pending (s := (s.setLct (s.lct.sendWord x)).done) (x := x)
      hen hb rfl rfl hkword hlen
    exact ⟨_, t, runOps_cons (exec_wrLctTxdata x s) hrun, hserial⟩
  · have hstart : s.loadWord.lct.bitcnt.toNat = 0 := congrArg BitVec.toNat hb
    obtain ⟨os, u, hrun, hbegun⟩ := runOps_word hen hb hkpre hpre (by omega)
    obtain ⟨hle, hstop⟩ := hbegun.rest (js := post) (by rw [hstart, Nat.zero_add, hn]; rfl) (by omega)
    have hends : u.lct.width ∣ u.lct.bitcnt.toNat + (pulseBits post).length := by
      refine Nat.dvd_of_mod_eq_zero ?_
      rw [hbegun.bitcnt, hbegun.width, Nat.mod_add_mod, hstart, Nat.zero_add, hn]
      exact Nat.mod_self _
    obtain ⟨os₁, t, os₂, v, hrun₁, hrun₂, hsame, hven, hvwidth, hvb, hvtxp, hvtxbuf⟩ :=
      runOps_within_send x (hbegun.en.trans hen) hbegun.inRange hkpost hle hstop hends
    have hw : v.lct.width = s.lct.width := hvwidth.trans hbegun.width
    obtain ⟨os₃, t', hrun₃, hserial⟩ := runOps_sends_pending hven hvb hvtxp (hvwidth ▸ hvtxbuf) hknext
      (hnext.trans hw.symm)
    refine ⟨_, t, _, t', runOps_trans hrun hrun₁,
      runOps_trans hrun (runOps_cons (exec_wrLctTxdata x u) (runOps_trans hrun₂ hrun₃)), ?_⟩
    calc serialBits (os ++ .nothing :: (os₂ ++ os₃))
        = serialBits os ++ (serialBits os₂ ++ serialBits os₃) := by
          rw [serialBits_append, serialBits, serialBits_append]
      _ = serialBits (os ++ os₁) ++ bitsOfWord x s.lct.width := by
          rw [serialBits_append, hsame, hserial, hw, List.append_assoc]

/-- The transport after exactly a word, no access having moved RXV or the pending word. -/
theorem WordRun.whole_lct {s t : State} {is : List Instr} {outs : List Output} (h : WordRun s is outs t)
    (hb : s.lct.bitcnt = 0) (hn : (pulseBits is).length = s.lct.width) (hrx : .rdLctRxdata ∉ is)
    (htx : ∀ v, .wrLctTxdata v ∉ is) :
    t.lct = { s.lct with
      rxv := true, bitcnt := 0, txsr := s.lct.txsr <<< s.lct.width
      rxsr := s.lct.rxsr <<< s.lct.width ||| wordOfBits (pulseBits is), rxbuf := wordOfBits (pulseBits is) } := by
  obtain ⟨_, hrxbuf, hbitcnt⟩ := h.whole hb hn
  obtain ⟨htxp, htxbuf⟩ := h.pending htx
  have hrxv : t.lct.rxv = true := by simp [h.rxv hrx, hb, hn]
  change (⟨t.lct.en, t.lct.w32, t.lct.ie, t.lct.rxv, t.lct.txp, t.lct.bitcnt, t.lct.rxsr, t.lct.txsr, t.lct.rxbuf,
    t.lct.txbuf⟩ : Lct) = _
  rw [h.en, h.w32, h.ie, hrxv, htxp, hbitcnt, h.rxsr, h.txsr, hrxbuf, htxbuf, hn]

/-- The input bits of a list of pulses. -/
theorem pulseBits_map_pulse (bits : List Bool) : pulseBits (bits.map .pulse) = bits := by
  induction bits with
  | nil => rfl
  | cons b bits ih => rw [List.map_cons, pulseBits, ih]

/-- A word's pulses with nothing between them (R120): what they send, and the whole transport after them. -/
theorem runOps_pulses_whole {bits : List Bool} {s : State} (hen : s.lct.en = true) (hb : s.lct.bitcnt = 0)
    (hn : bits.length = s.lct.width) :
    ∃ outs t, runOps (bits.map .pulse) s = some (outs, t) ∧
      serialBits outs = sentBits s.loadWord.lct.txsr s.lct.width ∧ t.draws = s.loadWord.draws ∧
      t.lct = { s.lct with
        txp := false, rxv := true, bitcnt := 0, txsr := s.loadWord.lct.txsr <<< s.lct.width
        rxsr := s.lct.rxsr <<< s.lct.width ||| wordOfBits bits, rxbuf := wordOfBits bits } := by
  have hpos := s.lct.width_pos
  have hn' : (pulseBits (bits.map .pulse)).length = s.lct.width := by rw [pulseBits_map_pulse, hn]
  obtain ⟨outs, t, hrun, hword⟩ := runOps_word hen hb (is := bits.map .pulse)
    (List.forall_mem_map.mpr fun si _ => keepsPending_pulse si) (by omega) hn'.le
  obtain ⟨hserial, _, _⟩ := hword.whole hb hn'
  refine ⟨outs, t, hrun, hserial, hword.draws, ?_⟩
  rw [hword.whole_lct hb hn' (by simp) (by simp), pulseBits_map_pulse]
  simp only [State.loadWord, if_pos hb]
  rfl

/-- A word's pulses send the aligned word loaded at the first of them and leave nothing of it. -/
theorem runOps_pulses_aligned {bits : List Bool} {s : State} {x : Word} (hen : s.lct.en = true)
    (hb : s.lct.bitcnt = 0) (hn : bits.length = s.lct.width) (hsrc : s.loadWord.lct.txsr = align s.lct.width x) :
    ∃ outs t, runOps (bits.map .pulse) s = some (outs, t) ∧ serialBits outs = bitsOfWord x s.lct.width ∧
      t.draws = s.loadWord.draws ∧
      t.lct = { s.lct with
        txp := false, rxv := true, bitcnt := 0, txsr := 0
        rxsr := s.lct.rxsr <<< s.lct.width ||| wordOfBits bits, rxbuf := wordOfBits bits } := by
  obtain ⟨outs, t, hrun, hserial, hdraws, hlct⟩ := runOps_pulses_whole hen hb hn
  rw [hsrc, sentBits_align x s.lct.width_le] at hserial
  rw [hsrc, align_shiftLeft x s.lct.width_le] at hlct
  exact ⟨outs, t, hrun, hserial, hdraws, hlct⟩

/-- Settles O25: the word's first pulse loads the idle word where it would load a pending one, and either is aligned, so
the rest is the same. -/
theorem underrunSendsOneIdleDraw : Obligations.UnderrunSendsOneIdleDraw := by
  intro s bits hen hb htxp hn
  have hidle : s.loadWord.lct.txsr = align s.lct.width (Config.idleTxWord s.draws) := by
    change s.lct.shiftSource _ = _
    rw [Lct.shiftSource_eq, if_pos hb, htxp, if_neg Bool.false_ne_true]
  have hone : s.loadWord.draws = s.draws + 1 := if_pos (by simp [Lct.underruns, Lct.startsWord, hb, htxp])
  obtain ⟨outs, t, hrun, hserial, hdraws, hlct⟩ := runOps_pulses_aligned hen hb hn hidle
  refine ⟨outs, t, hrun, hserial, hdraws.trans hone, fun x => ?_⟩
  obtain ⟨outs', t', hrun', _, _, hlct'⟩ := runOps_pulses_aligned
    (s := { s with lct := { s.lct with txp := true, txbuf := align s.lct.width x } }) hen hb hn
    (State.loadWord_txsr_pending hb rfl)
  refine ⟨outs', t', hrun', ?_⟩
  rw [hlct, hlct']
  rfl

/-! ### The polling host (R117) -/

/-- One round of a polling host: the peer's pulses, then a read of LCT_STATUS, which ends the wait if RXV is 1. -/
theorem procWaitRx_cons {sis : List Bool} {more : List (List Bool)} {s u : State} {outs : List Output}
    (h : runOps (sis.map .pulse) s = some (outs, u)) :
    procWaitRx (sis :: more) s =
      if u.lct.rxv then some (statusWord u.lct u.irq, u.answer (statusWord u.lct u.irq))
      else procWaitRx more (u.answer (statusWord u.lct u.irq)) := by
  obtain ⟨hrxv, _⟩ := statusWord_fields u.lct u.irq
  rw [procWaitRx, h]
  simp only [access_of_exec (exec_rdLctStatus u), Option.bind_eq_bind, Option.bind_some, State.readResult_answer, hrxv]

/-- A polling host that stops has read RXV = 1, and the word is still held (R117), by induction on the rounds. -/
theorem procWaitRx_stops_held {batches : List (List Bool)} {s t : State} {w : Word}
    (h : procWaitRx batches s = some (w, t)) : w.getLsbD 0 = true ∧ t.lct.rxv = true := by
  induction batches generalizing s with
  | nil => cases h
  | cons sis more ih =>
    obtain ⟨outs, u, hrun, _⟩ := runOps_completes (sis.map .pulse) s
    rw [procWaitRx_cons hrun] at h
    cases hrxv : u.lct.rxv with
    | false =>
      rw [hrxv, if_neg Bool.false_ne_true] at h
      exact ih h
    | true =>
      rw [hrxv, if_pos rfl] at h
      obtain ⟨rfl, rfl⟩ := Prod.mk.inj (Option.some.inj h)
      obtain ⟨hbit, _⟩ := statusWord_fields u.lct u.irq
      exact ⟨hbit.trans hrxv, hrxv⟩

/-- A polling host stops at its first read when the pulses before it leave a word held. -/
theorem procWaitRx_of_held {sis : List Bool} {s u : State} {outs : List Output}
    (h : runOps (sis.map .pulse) s = some (outs, u)) (hrxv : u.lct.rxv = true) (more : List (List Bool)) :
    ∃ w t, procWaitRx (sis :: more) s = some (w, t) ∧ t.lct = u.lct :=
  ⟨_, _, (procWaitRx_cons h).trans (if_pos hrxv), rfl⟩

/-- Settles O60: what stops the wait, a word held already, and a word completed by the pulses before the first read. -/
theorem pollingStopsWhenAWordIsHeld : Obligations.PollingStopsWhenAWordIsHeld := by
  refine ⟨fun _ _ _ _ => procWaitRx_stops_held, fun more s hrxv => procWaitRx_of_held rfl hrxv more,
    fun bits more s hen hb hn => ?_⟩
  obtain ⟨outs, u, hrun, _, _, hlct⟩ := runOps_pulses_whole hen hb hn
  obtain ⟨w, t, hwait, ht⟩ := procWaitRx_of_held hrun (by rw [hlct]) more
  exact ⟨w, t, hwait, by rw [ht, hlct]⟩

end Sys2Proof.Machine

/-! PROOF. The statements of 41_checksum.md: the checksum as a byte sum (R148, R151 to R153), the unit's registers
(R140 to R147), and the sequences of accesses that compute and verify a checksum (R148 to R150). -/

namespace Sys2Proof.Machine

/-! ### The checksum of a list (R148, R151, R152) -/

/-- The first byte fed after CK_CLEAR is the whole sum (R140, R141). -/
theorem addByte_zero (x : Byte) : addByte 0 x = zextByte x := BitVec.zero_add _

/-- Feeding bytes adds their checksum to what was accumulated before. -/
theorem foldl_addByte (acc : Half) (b : List Byte) : b.foldl addByte acc = acc + checksum b := by
  induction b generalizing acc with
  | nil => exact (BitVec.add_zero acc).symm
  | cons x b ih =>
    have hcons : checksum (x :: b) = addByte 0 x + checksum b := ih _
    rw [List.foldl_cons, ih, hcons, addByte_zero, addByte, BitVec.add_assoc]

/-- The checksum of a concatenation is the sum of the checksums (R152). -/
theorem checksum_append (a b : List Byte) : checksum (a ++ b) = checksum a + checksum b := by
  rw [checksum, List.foldl_append, foldl_addByte]
  rfl

/-- The checksum of one byte is that byte. -/
theorem checksum_singleton (x : Byte) : checksum [x] = zextByte x := addByte_zero x

/-- The first byte of a list adds itself to the checksum of the rest. -/
theorem checksum_cons (x : Byte) (b : List Byte) : checksum (x :: b) = zextByte x + checksum b := by
  rw [← checksum_singleton]
  exact checksum_append [x] b

/-- The checksum as a number: the byte sum modulo 65536 (R148). -/
theorem toNat_checksum (b : List Byte) : (checksum b).toNat = (b.map BitVec.toNat).sum % 65536 := by
  induction b with
  | nil => rfl
  | cons x b ih =>
    rw [checksum_cons, BitVec.toNat_add, toNat_zextByte, ih, List.map_cons, List.sum_cons, Nat.add_mod_mod]

/-- The order of the bytes does not show in their checksum (R152). -/
theorem checksum_perm {a b : List Byte} (h : a.Perm b) : checksum a = checksum b := by
  apply BitVec.eq_of_toNat_eq
  rw [toNat_checksum, toNat_checksum, (h.map BitVec.toNat).sum_eq]

/-- The checksum of one byte repeated. -/
theorem toNat_checksum_replicate (n : Nat) (x : Byte) :
    (checksum (List.replicate n x)).toNat = n * x.toNat % 65536 := by
  rw [toNat_checksum, List.map_replicate, List.sum_replicate, smul_eq_mul]

/-- Zero bytes add nothing (R152). -/
theorem checksum_replicate_zero (n : Nat) : checksum (List.replicate n 0) = 0 :=
  BitVec.eq_of_toNat_eq (toNat_checksum_replicate n 0)

/-- A byte sum is at most 255 for each byte. -/
theorem sum_toNat_le (b : List Byte) : (b.map BitVec.toNat).sum ≤ b.length * 255 := by
  have hle : ∀ n ∈ b.map BitVec.toNat, n ≤ 255 := by
    intro n hn
    obtain ⟨x, _, rfl⟩ := List.mem_map.mp hn
    exact Nat.le_of_lt_succ x.isLt
  simpa using List.sum_le_card_nsmul _ _ hle

/-- Fewer than 258 bytes do not wrap (R151). -/
theorem toNat_checksum_of_length_lt {b : List Byte} (h : b.length < 258) :
    (checksum b).toNat = (b.map BitVec.toNat).sum := by
  have hsum := sum_toNat_le b
  rw [toNat_checksum, Nat.mod_eq_of_lt (by omega)]

/-! ### Big-endian trailers (R149, R150) -/

/-- Two bytes are determined by their big-endian value (R78). -/
theorem bigEndian_inj {a b c d : Byte} : bigEndian a b = bigEndian c d ↔ a = c ∧ b = d := by
  refine ⟨fun h => ⟨?_, ?_⟩, fun ⟨ha, hb⟩ => ha ▸ hb ▸ rfl⟩
  · simpa using congrArg highByte h
  · simpa using congrArg lowByte h

/-- A list verifies against two bytes when they spell its checksum, high byte first (R150). -/
theorem verify_iff {b : List Byte} {hi lo : Byte} : verify b [hi, lo] = true ↔ bigEndian hi lo = checksum b :=
  beq_iff_eq

/-- A list fails to verify against two bytes when they spell another value than its checksum (R150). -/
theorem verify_eq_false_iff {b : List Byte} {hi lo : Byte} :
    verify b [hi, lo] = false ↔ bigEndian hi lo ≠ checksum b := beq_eq_false_iff_ne

/-- Every list verifies against its own trailer (R152). -/
theorem verify_appendChecksum (b : List Byte) : verify b (appendChecksum b) = true :=
  verify_iff.mpr (bigEndian_highByte_lowByte _)

/-- The trailer's two bytes, high byte first, spell the checksum (R149). -/
theorem toNat_of_appendChecksum {b : List Byte} {x y : Byte} (h : appendChecksum b = [x, y]) :
    x.toNat * 256 + y.toNat = (checksum b).toNat := by
  have hv : bigEndian x y = checksum b := verify_iff.mp (h ▸ verify_appendChecksum b)
  rw [← hv, toNat_bigEndian]

/-- Verification as a statement about numbers (R150). -/
theorem verify_iff_toNat {b : List Byte} {hi lo : Byte} :
    verify b [hi, lo] = true ↔ hi.toNat * 256 + lo.toNat = (checksum b).toNat := by
  rw [verify_iff, ← BitVec.toNat_inj, toNat_bigEndian]

/-! ### One flipped bit (R153) -/

/-- Flipping a bit of a byte changes the byte. -/
theorem xor_bit_ne (x : Byte) {k : Nat} (hk : k < 8) : x ^^^ (1#8 <<< k) ≠ x := by
  intro h
  have hbit : (x ^^^ (1#8 <<< k)).getLsbD k = x.getLsbD k := by rw [h]
  simp [hk] at hbit

/-- A byte's 16-bit extension determines it. -/
theorem zextByte_inj {x y : Byte} : zextByte x = zextByte y ↔ x = y := by
  rw [← BitVec.toNat_inj, toNat_zextByte, toNat_zextByte, BitVec.toNat_inj]

/-- One byte of a list added to the checksum of the bytes around it. -/
theorem checksum_middle (a : List Byte) (x : Byte) (b : List Byte) :
    checksum (a ++ x :: b) = zextByte x + checksum (a ++ b) := by
  rw [checksum_perm List.perm_middle, checksum_cons]

/-- Another byte in one place gives another checksum. -/
theorem checksum_set_ne {a : List Byte} {n : Nat} (h : n < a.length) {x : Byte} (hx : x ≠ a[n]) :
    checksum (a.set n x) ≠ checksum a := by
  intro heq
  have ha : a = a.take n ++ a[n] :: a.drop (n + 1) := by rw [List.cons_getElem_drop_succ, List.take_append_drop]
  rw [congrArg checksum ha, List.set_eq_take_append_cons_drop, if_pos h, checksum_middle, checksum_middle] at heq
  exact hx (zextByte_inj.mp (add_right_cancel heq))

/-! ### Register values as numbers (R76, R142 to R144) -/

/-- `v[15:0]` as a number (R76). -/
theorem toNat_halfField (v : Word) : (halfField v).toNat = v.toNat % 65536 := by
  simp [halfField, BitVec.extractLsb'_toNat]

/-- A 16-bit value zero-extended to a read's 32 bits is the same number (R142, R144). -/
theorem toNat_setWidth_half (x : Half) : (x.setWidth 32).toNat = x.toNat := by
  rw [BitVec.toNat_setWidth]
  exact Nat.mod_eq_of_lt (Nat.lt_trans x.isLt (by decide))

/-! ### The codec after a sequence of operations -/

/-- What a sequence of operations does to CAS. -/
def casAfterAll (is : List Instr) (c : Cas) : Cas := is.foldl (fun c i => casAfter i c) c

@[simp] theorem casAfterAll_nil (c : Cas) : casAfterAll [] c = c := rfl

@[simp] theorem casAfterAll_cons (i : Instr) (is : List Instr) (c : Cas) :
    casAfterAll (i :: is) c = casAfterAll is (casAfter i c) := rfl

@[simp] theorem casAfterAll_append (is js : List Instr) (c : Cas) :
    casAfterAll (is ++ js) c = casAfterAll js (casAfterAll is c) := List.foldl_append

/-- A sequence of operations completes, and CAS is then what the operations make of it one after the other. -/
theorem runOps_cas (is : List Instr) (s : State) :
    ∃ outs t, runOps is s = some (outs, t) ∧ t.cas = casAfterAll is s.cas := by
  induction is generalizing s with
  | nil => exact ⟨[], s, rfl, rfl⟩
  | cons i is ih =>
    obtain ⟨u, hu⟩ := exec_completes i s
    obtain ⟨outs, t, hrun, ht⟩ := ih u
    obtain ⟨hcas, _⟩ := cas_draws_of_exec hu
    exact ⟨_, t, runOps_cons hu hrun, by rw [ht, hcas, casAfterAll_cons]⟩

/-- A sequence of operations and one more: its last answer, from a state whose CAS the sequence made. -/
theorem runOps_concat (is : List Instr) (i : Instr) (s : State) :
    ∃ outs u t, runOps (is ++ [i]) s = some (outs, t) ∧ u.cas = casAfterAll is s.cas ∧
      t.cas = casAfter i u.cas ∧ t.out = outAfter i u := by
  obtain ⟨outs, u, hrun, hu⟩ := runOps_cas is s
  exact ⟨_, u, _, runOps_trans hrun (runOps_cons (exec_eq i u) rfl), hu, rfl, rfl⟩

/-- The serializer's strobes touch neither ACC nor EXPECT (R160, R161). -/
@[simp] theorem Cas.encodeRecord_acc (t : Config.Tags) (c : Cas) : (c.encodeRecord t).acc = c.acc := by
  unfold Cas.encodeRecord
  split_ifs <;> rfl

@[simp] theorem Cas.encodeRecord_expect (t : Config.Tags) (c : Cas) : (c.encodeRecord t).expect = c.expect := by
  unfold Cas.encodeRecord
  split_ifs <;> rfl

@[simp] theorem Cas.decodeRecord_acc (t : Config.Tags) (c : Cas) : (c.decodeRecord t).acc = c.acc := by
  simp only [Cas.decodeRecord]
  split_ifs <;> rfl

@[simp] theorem Cas.decodeRecord_expect (t : Config.Tags) (c : Cas) : (c.decodeRecord t).expect = c.expect := by
  simp only [Cas.decodeRecord]
  split_ifs <;> rfl

/-- Only CK_CLEAR and CK_DATA touch ACC (R140, R141): an operation other than CK_CLEAR adds the byte it feeds. -/
theorem casAfter_acc {i : Instr} (h : ∀ v, i ≠ .wrCkClear v) (c : Cas) :
    (casAfter i c).acc = c.acc + checksum (fedBytes [i]) := by
  cases i with
  | wrCkClear v => exact absurd rfl (h v)
  | wrCkData v => exact congrArg (c.acc + ·) (checksum_singleton (byteField v)).symm
  | wrAdEncode => exact (c.encodeRecord_acc _).trans (BitVec.add_zero _).symm
  | wrAdDecode => exact (c.decodeRecord_acc _).trans (BitVec.add_zero _).symm
  | _ =>
    simp only [casAfter, fedBytes]
    exact (BitVec.add_zero c.acc).symm

/-- Only CK_EXPECT touches EXPECT (R143). -/
theorem casAfter_expect {i : Instr} (h : ∀ v, i ≠ .wrCkExpect v) (c : Cas) :
    (casAfter i c).expect = c.expect := by
  cases i with
  | wrCkExpect v => exact absurd rfl (h v)
  | wrAdEncode => exact c.encodeRecord_expect _
  | wrAdDecode => exact c.decodeRecord_expect _
  | _ => simp only [casAfter]

/-- Operations other than CK_CLEAR add the checksum of the bytes they feed to ACC, by induction on the operations. -/
theorem casAfterAll_acc {is : List Instr} (h : ∀ i ∈ is, ∀ v, i ≠ .wrCkClear v) (c : Cas) :
    (casAfterAll is c).acc = c.acc + checksum (fedBytes is) := by
  induction is generalizing c with
  | nil => exact (BitVec.add_zero c.acc).symm
  | cons i is ih =>
    obtain ⟨hi, his⟩ := List.forall_mem_cons.mp h
    rw [casAfterAll_cons, ih his, casAfter_acc hi, BitVec.add_assoc, ← checksum_append, ← fedBytes_append,
      List.singleton_append]

/-- Operations other than CK_EXPECT keep EXPECT, by induction on the operations. -/
theorem casAfterAll_expect {is : List Instr} (h : ∀ i ∈ is, ∀ v, i ≠ .wrCkExpect v) (c : Cas) :
    (casAfterAll is c).expect = c.expect := by
  induction is generalizing c with
  | nil => rfl
  | cons i is ih =>
    obtain ⟨hi, his⟩ := List.forall_mem_cons.mp h
    rw [casAfterAll_cons, ih his, casAfter_expect hi]

/-- From the last CK_CLEAR on, ACC is the checksum of the bytes fed (R148). -/
theorem casAfterAll_clear_acc {is : List Instr} (h : ∀ i ∈ is, ∀ v, i ≠ .wrCkClear v) (v : Word) (c : Cas) :
    (casAfterAll (.wrCkClear v :: is) c).acc = checksum (fedBytes is) :=
  (casAfterAll_acc h _).trans (BitVec.zero_add _)

/-- From the last CK_EXPECT on, EXPECT is the value it stored (R143). -/
theorem casAfterAll_load_expect {is : List Instr} (h : ∀ i ∈ is, ∀ v, i ≠ .wrCkExpect v) (x : Half) (c : Cas) :
    (casAfterAll (.wrCkExpect (x.setWidth 32) :: is) c).expect = x :=
  (casAfterAll_expect h _).trans (halfField_setWidth x)

/-- CK_CLEAR, then CK_EXPECT: ACC is the checksum of the bytes fed on either side of CK_EXPECT (R148, R143). -/
theorem casAfterAll_clear_then_load {p q : List Instr} (hclear : ∀ i ∈ p ++ q, ∀ v, i ≠ .wrCkClear v)
    (hload : ∀ i ∈ q, ∀ v, i ≠ .wrCkExpect v) (v : Word) (x : Half) (c : Cas) :
    (casAfterAll (.wrCkClear v :: p ++ .wrCkExpect (x.setWidth 32) :: q) c).acc = checksum (fedBytes (p ++ q)) ∧
      (casAfterAll (.wrCkClear v :: p ++ .wrCkExpect (x.setWidth 32) :: q) c).expect = x := by
  obtain ⟨hp, hq⟩ := List.forall_mem_append.mp hclear
  have hnone : ∀ i ∈ p ++ .wrCkExpect (x.setWidth 32) :: q, ∀ v, i ≠ .wrCkClear v :=
    List.forall_mem_append.mpr ⟨hp, List.forall_mem_cons.mpr ⟨by simp, hq⟩⟩
  constructor
  · rw [List.cons_append, casAfterAll_clear_acc hnone, fedBytes_append, fedBytes_append]
    rfl
  · rw [casAfterAll_append, casAfterAll_load_expect hload]

/-- CK_EXPECT, then CK_CLEAR: ACC is the checksum of the bytes fed after CK_CLEAR (R148, R143). -/
theorem casAfterAll_load_then_clear {p q : List Instr} (hload : ∀ i ∈ p ++ q, ∀ v, i ≠ .wrCkExpect v)
    (hclear : ∀ i ∈ q, ∀ v, i ≠ .wrCkClear v) (v : Word) (x : Half) (c : Cas) :
    (casAfterAll (.wrCkExpect (x.setWidth 32) :: p ++ .wrCkClear v :: q) c).acc = checksum (fedBytes q) ∧
      (casAfterAll (.wrCkExpect (x.setWidth 32) :: p ++ .wrCkClear v :: q) c).expect = x := by
  obtain ⟨hp, hq⟩ := List.forall_mem_append.mp hload
  have hnone : ∀ i ∈ p ++ .wrCkClear v :: q, ∀ w, i ≠ .wrCkExpect w :=
    List.forall_mem_append.mpr ⟨hp, List.forall_mem_cons.mpr ⟨by simp, hq⟩⟩
  constructor
  · rw [casAfterAll_append, casAfterAll_clear_acc hclear]
  · rw [List.cons_append, casAfterAll_load_expect hnone]

/-! ### What CK_STATUS answers (R145, R150) -/

/-- MATCH is verification, when ACC is a list's checksum and EXPECT the big-endian trailer (R150). -/
theorem Cas.matches_eq_verify {c : Cas} {b : List Byte} {hi lo : Byte} (hacc : c.acc = checksum b)
    (hexp : c.expect = bigEndian hi lo) : c.matches = verify b [hi, lo] := by
  rw [Cas.matches, hacc, hexp]
  exact BEq.comm

/-- A sequence that leaves a list's checksum in ACC and a trailer in EXPECT, then CK_STATUS: the answer is whether the
list verifies against the trailer (R150). -/
theorem runOps_rdCkStatus {is : List Instr} {s : State} {b : List Byte} {hi lo : Byte}
    (hacc : (casAfterAll is s.cas).acc = checksum b) (hexp : (casAfterAll is s.cas).expect = bigEndian hi lo) :
    ∃ outs t, runOps (is ++ [.rdCkStatus]) s = some (outs, t) ∧ t.cas.matches = verify b [hi, lo] ∧
      t.out = .readData (if verify b [hi, lo] then 1 else 0) := by
  obtain ⟨outs, u, t, hrun, hu, ht, hout⟩ := runOps_concat is .rdCkStatus s
  have hmatch : u.cas.matches = verify b [hi, lo] := by
    rw [hu]
    exact Cas.matches_eq_verify hacc hexp
  refine ⟨outs, t, hrun, ht ▸ hmatch, ?_⟩
  rw [hout, outAfter, hmatch, zextBit_eq_ite]

/-! ### The host's procedures (R148 to R150) -/

/-- The state with another value in ACC, the only field CHECKSUM changes. -/
def State.setAcc (s : State) (a : Half) : State := s.setCas { s.cas with acc := a }

/-- The writes of CK_DATA for some bytes accumulate them, by induction on the bytes. -/
theorem accesses_feedBytes (b : List Byte) (s : State) (a : Half) :
    accesses (feedBytes b) (s.setAcc a).done = some (s.setAcc (b.foldl addByte a)).done := by
  induction b generalizing a with
  | nil => rfl
  | cons x b ih =>
    have hx : exec (.wrCkData (x.setWidth 32)) (s.setAcc a).done = .next (s.setAcc (addByte a x)).done := by
      rw [exec_wrCkData, byteField_setWidth]
      rfl
    exact (accesses_cons hx).trans (ih _)

/-- CK_CLEAR and one CK_DATA for each byte leave the checksum in ACC and change nothing else (R148). -/
theorem accesses_clear_feedBytes (b : List Byte) (v : Word) (s : State) :
    accesses (.wrCkClear v :: feedBytes b) s = some (s.setAcc (checksum b)).done :=
  (accesses_cons (exec_wrCkClear v s)).trans (accesses_feedBytes b s 0)

/-- CHECKSUM answers the checksum, which stays in ACC (R148). -/
theorem procChecksum_eq (b : List Byte) (s : State) :
    procChecksum b s = some (checksum b, (s.setAcc (checksum b)).answer ((checksum b).setWidth 32)) := by
  rw [procChecksum, accesses_clear_feedBytes]
  change some (halfField ((checksum b).setWidth 32), _) = _
  rw [halfField_setWidth]
  rfl

/-- VERIFY answers the same, with the same end state, whichever side orders the trailer's bytes (R57 beside R143). -/
theorem procVerify_eq_blockVerify (b : List Byte) (hi lo : Byte) (s : State) :
    procVerify b hi lo s = blockVerify b hi lo s := by
  rw [procVerify, blockVerify, funext (hostLoadTrailer_eq hi lo)]

/-- VERIFY answers whether the list verifies, with its checksum in ACC and the trailer in EXPECT (R150). -/
theorem blockVerify_eq (b : List Byte) (hi lo : Byte) (s : State) :
    blockVerify b hi lo s = some (verify b [hi, lo],
      (s.setCas ((s.setAcc (checksum b)).cas.takeTrailer hi lo)).answer (zextBit (verify b [hi, lo]))) := by
  have hmatch : ((s.setAcc (checksum b)).cas.takeTrailer hi lo).matches = verify b [hi, lo] :=
    Cas.matches_eq_verify rfl rfl
  rw [blockVerify, verifyWith, procChecksum_eq, ← hmatch]
  change some ((zextBit _).getLsbD 0, _) = _
  rw [zextBit_getLsbD, decide_eq_true rfl, Bool.and_true]
  rfl

/-! ### The statements -/

/-- Settles O41: the fold as a byte sum; ACC from the last CK_CLEAR on; and the procedure's end state. -/
theorem checksumProcedureComputesByteSum : Obligations.ChecksumProcedureComputesByteSum := by
  refine ⟨toNat_checksum, fun c ops s h => ?_, fun b s => ⟨_, procChecksum_eq b s, rfl, rfl, rfl⟩⟩
  obtain ⟨outs, u, t, hrun, hu, _, hout⟩ := runOps_concat (.wrCkClear c :: ops) .rdCkSum s
  refine ⟨outs, t, hrun, ?_⟩
  rw [hout, outAfter, hu, casAfterAll_clear_acc h]

/-- Settles O42: the trailer and verification as numbers, the procedures' end states, and for each order of CK_CLEAR and
CK_EXPECT what ACC and EXPECT hold when CK_STATUS is read. -/
theorem verifyProcedureComparesBigEndianTrailer : Obligations.VerifyProcedureComparesBigEndianTrailer := by
  intro b hi lo c p q s
  refine ⟨?_, fun x y => toNat_of_appendChecksum, ?_, verify_iff_toNat, fun hclear hexpect => ?_,
    fun hexpect hclear => ?_⟩
  · rw [procAppendChecksum, blockAppendChecksum, procChecksum_eq]
    exact ⟨_, rfl, rfl⟩
  · rw [procVerify_eq_blockVerify, blockVerify_eq]
    refine ⟨_, rfl, rfl, ?_, rfl⟩
    change [highByte (bigEndian hi lo), lowByte (bigEndian hi lo)] = _
    rw [highByte_bigEndian, lowByte_bigEndian]
  · obtain ⟨hacc, hexp⟩ := casAfterAll_clear_then_load hclear hexpect c (bigEndian hi lo) s.cas
    exact runOps_rdCkStatus hacc hexp
  · obtain ⟨hacc, hexp⟩ := casAfterAll_load_then_clear hexpect hclear c (bigEndian hi lo) s.cas
    exact runOps_rdCkStatus hacc hexp

/-- Settles O43: the general bound, and the repeated byte's sum modulo 65536. -/
theorem checksumWrapsOnlyFrom258Bytes : Obligations.ChecksumWrapsOnlyFrom258Bytes :=
  ⟨fun _ => toNat_checksum_of_length_lt, BitVec.eq_of_toNat_eq (toNat_checksum_replicate 257 0xFF),
    BitVec.eq_of_toNat_eq (toNat_checksum_replicate 258 0xFF)⟩

/-- Settles O44: one lemma for each law. -/
theorem checksumAlgebra : Obligations.ChecksumAlgebra := by
  refine ⟨checksum_append, fun a b => checksum_perm, fun a n => ?_, verify_appendChecksum⟩
  rw [checksum_append, checksum_replicate_zero]
  exact BitVec.add_zero _

/-- Settles O45: another byte in the list gives another checksum, another byte in the trailer spells another value. -/
theorem everySingleBitErrorIsDetected : Obligations.EverySingleBitErrorIsDetected := by
  intro a hi lo hv
  have hsum : bigEndian hi lo = checksum a := verify_iff.mp hv
  refine ⟨fun n hn k hk => ?_, fun k hk => ⟨?_, ?_⟩⟩
  · rw [verify_eq_false_iff, hsum]
    exact (checksum_set_ne hn (xor_bit_ne _ hk)).symm
  · rw [verify_eq_false_iff, ← hsum]
    exact fun h => xor_bit_ne hi hk (bigEndian_inj.mp h).1
  · rw [verify_eq_false_iff, ← hsum]
    exact fun h => xor_bit_ne lo hk (bigEndian_inj.mp h).2

/-- Settles O38: the three writes' meanings, with their values as numbers. -/
theorem checksumWritesUpdateAccumulatorAndExpected : Obligations.ChecksumWritesUpdateAccumulatorAndExpected := by
  refine fun v s => ⟨exec_wrCkClear v s, ⟨_, ?_, exec_wrCkData v s⟩, _, toNat_halfField v, exec_wrCkExpect v s⟩
  rw [toNat_addByte, toNat_byteField]

/-- Settles O39: the three reads' meanings, with the values they answer as numbers and MATCH as an equality. -/
theorem checksumReadsAnswerSumExpectedAndMatch : Obligations.ChecksumReadsAnswerSumExpectedAndMatch := by
  refine fun s => ⟨⟨_, toNat_setWidth_half _, exec_rdCkSum s⟩, ⟨_, toNat_setWidth_half _, exec_rdCkExpect s⟩, ?_⟩
  rw [exec_rdCkStatus, zextBit_eq_ite]
  simp only [Cas.matches, beq_iff_eq]
  rfl

/-- Settles O40: the four meanings. -/
theorem checksumInertAccessesChangeNothing : Obligations.ChecksumInertAccessesChangeNothing :=
  fun v s => ⟨exec_rdCkClear s, exec_rdCkData s, exec_wrCkSum v s, exec_wrCkStatus v s⟩

end Sys2Proof.Machine

/-! PROOF. The statements of 42_address.md: the serializer's registers (R166 to R168), its two strobes (R160, R161), and
the functions they compute (R162, R165, R171 to R173). -/

namespace Sys2Proof.Machine

/-! ### Byte arrays as lists, and their registers (R32, R35) -/

/-- Byte `i` of a byte array, where it has one. -/
theorem getElem?_eq_readByte {n : Nat} (a : Vector Byte n) {i : Nat} (h : i < n) : a[i]? = some (readByte a i) := by
  rw [readByte_of_lt a h, Vector.getElem?_eq_getElem h]

/-- A shorter read is the beginning of a longer one. -/
theorem take_readBytes {n : Nat} (a : Vector Byte n) (i : Nat) {k m : Nat} (h : k ≤ m) :
    (readBytes a i m).take k = readBytes a i k := by
  obtain ⟨d, rfl⟩ := Nat.exists_eq_add_of_le h
  rw [readBytes_add, List.take_left' (length_readBytes a i k)]

/-- The bytes stored read back, where the array has room for them. -/
theorem readBytes_writeBytes {n : Nat} (a : Vector Byte n) (i : Nat) (bs : List Byte) (h : i + bs.length ≤ n) :
    readBytes (writeBytes a i bs) i bs.length = bs := by
  apply List.ext_getElem?
  intro k
  by_cases hk : k < bs.length
  · rw [getElem?_readBytes _ _ _ _ hk, readByte_writeBytes, if_pos (by omega), Nat.add_sub_cancel_left]
    simp [hk]
  · simp [hk]

/-- Byte `j` of a register's value is the array's byte `4k + j` (R166). -/
theorem getElem?_eq_extractLsb'_readRegister {n : Nat} (a : Vector Byte n) {k j : Nat} (hj : j < 4)
    (hk : 4 * k + 4 ≤ n) : a[4 * k + j]? = some ((readRegister a k).extractLsb' (8 * j) 8) := by
  rw [extractLsb'_readRegister a k j hj, getElem?_eq_readByte a (by omega)]

/-- Every byte after register `k` is written (R167): its four bytes are the operand's, the others stay. -/
theorem getElem_writeRegister {n : Nat} (a : Vector Byte n) (k : Nat) (v : Word) (i : Nat) (h : i < n) :
    (writeRegister a k v)[i] = if i / 4 = k then v.extractLsb' (8 * (i % 4)) 8 else a[i] := by
  rw [← readByte_of_lt _ h, readByte_writeRegister, readByte_of_lt a h]
  by_cases hk : i / 4 = k
  · rw [if_pos hk, if_pos (by omega), show i - 4 * k = i % 4 by omega]
  · rw [if_neg hk, if_neg (by omega)]

/-- The HOST registers' reads in order (R166): read `k` answers register `k`. -/
theorem exec_hostReads {i : Instr} {k : Nat} (h : hostReads[k]? = some i) (s : State) :
    exec i s = .next (s.answer (readRegister s.cas.host k)) := by
  match k, h with
  | 0, rfl => exact exec_rdAdHost0 s
  | 1, rfl => exact exec_rdAdHost1 s
  | 2, rfl => exact exec_rdAdHost2 s
  | 3, rfl => exact exec_rdAdHost3 s

/-- The BUF registers' reads in order (R166): read `k` answers register `k`. -/
theorem exec_bufReads {i : Instr} {k : Nat} (h : bufReads[k]? = some i) (s : State) :
    exec i s = .next (s.answer (readRegister s.cas.buf k)) := by
  match k, h with
  | 0, rfl => exact exec_rdAdBuf0 s
  | 1, rfl => exact exec_rdAdBuf1 s
  | 2, rfl => exact exec_rdAdBuf2 s
  | 3, rfl => exact exec_rdAdBuf3 s
  | 4, rfl => exact exec_rdAdBuf4 s

/-- The writes of one operand to the HOST registers, in order. -/
def hostWrites (v : Word) : List Instr := [.wrAdHost0 v, .wrAdHost1 v, .wrAdHost2 v, .wrAdHost3 v]

/-- The writes of one operand to the BUF registers, in order. -/
def bufWrites (v : Word) : List Instr := [.wrAdBuf0 v, .wrAdBuf1 v, .wrAdBuf2 v, .wrAdBuf3 v, .wrAdBuf4 v]

/-- Write `k` of the HOST registers stores register `k` (R167). -/
theorem exec_hostWrites {i : Instr} {k : Nat} {v : Word} (h : (hostWrites v)[k]? = some i) (s : State) :
    exec i s = .next (s.setCas { s.cas with host := writeRegister s.cas.host k v }).done := by
  match k, h with
  | 0, rfl => exact exec_wrAdHost0 v s
  | 1, rfl => exact exec_wrAdHost1 v s
  | 2, rfl => exact exec_wrAdHost2 v s
  | 3, rfl => exact exec_wrAdHost3 v s

/-- Write `k` of the BUF registers stores register `k` (R167). -/
theorem exec_bufWrites {i : Instr} {k : Nat} {v : Word} (h : (bufWrites v)[k]? = some i) (s : State) :
    exec i s = .next (s.setCas { s.cas with buf := writeRegister s.cas.buf k v }).done := by
  match k, h with
  | 0, rfl => exact exec_wrAdBuf0 v s
  | 1, rfl => exact exec_wrAdBuf1 v s
  | 2, rfl => exact exec_wrAdBuf2 v s
  | 3, rfl => exact exec_wrAdBuf3 v s
  | 4, rfl => exact exec_wrAdBuf4 v s

/-! ### The registers' statements (R166 to R168) -/

/-- `v[1:0]` as a number (R76). -/
theorem toNat_typeField (v : Word) : (typeField v).toNat = v.toNat % 4 := by
  simp [typeField, BitVec.extractLsb'_toNat]

/-- Settles O46: the reads' meanings, the numbers they answer, and the bytes of a register. -/
theorem serializerReadsAnswerTheirFields : Obligations.SerializerReadsAnswerTheirFields := by
  refine fun s => ⟨⟨_, BitVec.toNat_setWidth_of_le (by decide), exec_rdAdType s⟩,
    ⟨_, toNat_setWidth_half _, exec_rdAdPort s⟩, ⟨_, BitVec.toNat_setWidth_of_le (by decide), exec_rdAdLen s⟩,
    ⟨_, BitVec.toNat_setWidth_of_le (by decide), exec_rdAdResult s⟩, fun i k h => ?_, fun i k h => ?_⟩
  · have hread : hostReads[k]? = some i := List.mk_mem_zipIdx_iff_getElem?.mp h
    have hk : k < 4 := (List.getElem?_eq_some_iff.mp hread).1
    exact ⟨_, exec_hostReads hread s, fun j hj => getElem?_eq_extractLsb'_readRegister _ hj (by omega)⟩
  · have hread : bufReads[k]? = some i := List.mk_mem_zipIdx_iff_getElem?.mp h
    have hk : k < 5 := (List.getElem?_eq_some_iff.mp hread).1
    exact ⟨_, exec_bufReads hread s, fun j hj => getElem?_eq_extractLsb'_readRegister _ hj (by omega)⟩

/-- Settles O47: the writes' meanings, the numbers they store, and the bytes of a register. -/
theorem serializerWritesStoreTheirFields : Obligations.SerializerWritesStoreTheirFields := by
  refine fun v s => ⟨⟨_, toNat_typeField v, exec_wrAdType v s⟩, ⟨_, toNat_halfField v, exec_wrAdPort v s⟩,
    ⟨_, toNat_byteField v, exec_wrAdLen v s⟩, fun i k h => ?_, fun i k h => ?_⟩
  · have hwrite : (hostWrites v)[k]? = some i := List.mk_mem_zipIdx_iff_getElem?.mp h
    exact ⟨_, exec_hostWrites hwrite s, getElem_writeRegister _ k v⟩
  · have hwrite : (bufWrites v)[k]? = some i := List.mk_mem_zipIdx_iff_getElem?.mp h
    exact ⟨_, exec_bufWrites hwrite s, getElem_writeRegister _ k v⟩

/-- Settles O48: the three meanings. -/
theorem serializerInertAccessesChangeNothing : Obligations.SerializerInertAccessesChangeNothing :=
  fun v s => ⟨exec_rdAdEncode s, exec_rdAdDecode s, exec_wrAdResult v s⟩

/-! ### The strobes (R160, R161) -/

/-- LEN after AD_ENCODE (R160): the length of the variant's encoding, 0 for no variant. -/
theorem Cas.encodeRecord_len (t : Config.Tags) (c : Cas) :
    (c.encodeRecord t).len =
      if c.type = 0 then 1 else if c.type = 1 then 7 else if c.type = 2 then 19 else 0 := by
  unfold Cas.encodeRecord
  split_ifs <;> rfl

/-- AD_ENCODE stores at most 19 bytes (R160). -/
theorem Cas.encodeRecord_len_le (t : Config.Tags) (c : Cas) : (c.encodeRecord t).len.toNat ≤ 19 := by
  rw [c.encodeRecord_len]
  split_ifs <;> decide

/-- AD_ENCODE stores both bytes of a port or none (R160). -/
theorem Cas.encodeRecord_len_port {t : Config.Tags} {c : Cas} (h : 1 < (c.encodeRecord t).len.toNat) :
    2 < (c.encodeRecord t).len.toNat := by
  revert h
  rw [c.encodeRecord_len]
  split_ifs <;> decide

/-- AD_ENCODE changes BUF and LEN alone (R160). -/
theorem Cas.encodeRecord_eq (t : Config.Tags) (c : Cas) :
    c.encodeRecord t = { c with buf := (c.encodeRecord t).buf, len := (c.encodeRecord t).len } := by
  unfold Cas.encodeRecord
  split_ifs <;> rfl

@[simp] theorem Cas.encodeRecord_port (t : Config.Tags) (c : Cas) : (c.encodeRecord t).port = c.port := by
  rw [c.encodeRecord_eq t]

@[simp] theorem Cas.encodeRecord_host (t : Config.Tags) (c : Cas) : (c.encodeRecord t).host = c.host := by
  rw [c.encodeRecord_eq t]

/-- The tag of the variant that TYPE names (R160, R163). -/
def Cas.tagByte (t : Config.Tags) (c : Cas) : Byte :=
  if c.type = 0 then t.none else if c.type = 1 then t.ipv4 else t.ipv6

theorem Cas.tagByte_none {t : Config.Tags} {c : Cas} (h : c.type = 0) : c.tagByte t = t.none := if_pos h

theorem Cas.tagByte_ipv4 {t : Config.Tags} {c : Cas} (h : c.type = 1) : c.tagByte t = t.ipv4 := by
  simp [Cas.tagByte, h]

theorem Cas.tagByte_ipv6 {t : Config.Tags} {c : Cas} (h : c.type = 2) : c.tagByte t = t.ipv6 := by
  simp [Cas.tagByte, h]

/-- Every byte of BUF after a record with a port is stored (R160), the record's bytes before the old ones. -/
theorem readByte_bufWith_eq (c : Cas) (tag : Byte) (n : Nat) {k : Nat} (hk : k < 20) :
    readByte (c.bufWith tag n) k =
      if k < 3 + n then
        if k = 0 then tag else if k = 1 then highByte c.port else if k = 2 then lowByte c.port
        else readByte c.host (k - 3)
      else readByte c.buf k := by
  rw [readByte_bufWith _ _ _ _ hk]
  by_cases hn : k < 3 + n
  · simp only [if_pos hn]
  · rw [if_neg hn, if_neg hn, if_neg (by omega), if_neg (by omega), if_neg (by omega)]

/-- Every byte of BUF after AD_ENCODE (R160): the record's bytes below LEN, the old ones from there up. -/
theorem readByte_encodeRecord (t : Config.Tags) (c : Cas) {k : Nat} (hk : k < 20) :
    readByte (c.encodeRecord t).buf k =
      if k < (c.encodeRecord t).len.toNat then
        if k = 0 then c.tagByte t else if k = 1 then highByte c.port else if k = 2 then lowByte c.port
        else readByte c.host (k - 3)
      else readByte c.buf k := by
  obtain h | h | h | h := c.type_cases
  · rw [Cas.encodeRecord_none h, Cas.tagByte_none h, readByte_writeBytes]
    by_cases h0 : k = 0 <;> simp [h0]
  · rw [Cas.encodeRecord_ipv4 h, Cas.tagByte_ipv4 h]
    exact readByte_bufWith_eq c t.ipv4 4 hk
  · rw [Cas.encodeRecord_ipv6 h, Cas.tagByte_ipv6 h]
    exact readByte_bufWith_eq c t.ipv6 16 hk
  · rw [Cas.encodeRecord_noVariant h]
    rfl

/-- The bytes AD_ENCODE stores, one by one (R160). -/
theorem readByte_encodeRecord_of_lt {t : Config.Tags} {c : Cas} {k : Nat} (hk : k < (c.encodeRecord t).len.toNat) :
    readByte (c.encodeRecord t).buf k =
      if k = 0 then c.tagByte t else if k = 1 then highByte c.port else if k = 2 then lowByte c.port
      else readByte c.host (k - 3) := by
  have hlen := c.encodeRecord_len_le t
  rw [readByte_encodeRecord t c (by omega), if_pos hk]

/-- Settles O49: LEN by the variant, and every byte of BUF, stored or kept. -/
theorem encodeStrobeWritesTheRecordBytes : Obligations.EncodeStrobeWritesTheRecordBytes := by
  intro v s
  refine ⟨(s.cas.encodeRecord Config.tags).buf, (s.cas.encodeRecord Config.tags).len, s.cas.tagByte Config.tags, ?_,
    Cas.encodeRecord_len _ _, rfl, fun k hk hn => ?_, fun hn => ?_, fun hn => ?_, fun k hk hn => ?_⟩
  · rw [exec_wrAdEncode, Cas.encodeRecord_eq]
    rfl
  · rw [getElem?_eq_readByte _ hk, getElem?_eq_readByte _ hk, readByte_encodeRecord _ _ hk, if_neg (by omega)]
  · rw [← readByte_of_lt]
    exact readByte_encodeRecord_of_lt hn
  · rw [← readByte_of_lt, ← readByte_of_lt, readByte_encodeRecord_of_lt hn,
      readByte_encodeRecord_of_lt (Cas.encodeRecord_len_port hn), ← toNat_bigEndian]
    exact congrArg BitVec.toNat (bigEndian_highByte_lowByte s.cas.port)
  · have hlen := s.cas.encodeRecord_len_le Config.tags
    rw [getElem?_eq_readByte _ (by omega), getElem?_eq_readByte _ (by omega), readByte_encodeRecord_of_lt hn,
      if_neg (by omega), if_neg (by omega), if_neg (by omega)]

/-- Settles O50: the port and the HOST bytes that BUF holds, and the choice among the variants. -/
theorem decodeStrobeReadsTheRecordBytes : Obligations.DecodeStrobeReadsTheRecordBytes := by
  intro v s
  refine ⟨s.cas.portFromBuf, s.cas.hostFromBuf 4, s.cas.hostFromBuf 16, ?_, fun k hk => ?_, fun k hk => ?_, ?_⟩
  · rw [Cas.portFromBuf, toNat_bigEndian, readByte_of_lt, readByte_of_lt]
  · rw [getElem?_eq_readByte _ hk, getElem?_eq_readByte _ hk, getElem?_eq_readByte _ (by omega),
      readByte_hostFromBuf _ _ _ hk]
    exact apply_ite some _ _ _
  · rw [getElem?_eq_readByte _ hk, getElem?_eq_readByte _ (by omega), readByte_hostFromBuf _ _ _ hk, if_pos hk]
  · rw [exec_wrAdDecode, Cas.decodeRecord, readByte_of_lt _ (by decide)]
    rfl

/-! ### The functions (R162, R165, R172, R173) -/

/-- `decode_address` as one choice among the records that the tag and the length allow (R165). -/
theorem decodeAddress_eq {t : Config.Tags} (hd : t.distinct = true) (b : List Byte) :
    decodeAddress t b =
      if 1 ≤ b.length ∧ b.getD 0 0 = t.none then (some .none, 1)
      else if 7 ≤ b.length ∧ b.getD 0 0 = t.ipv4 then (some (.ipv4 (portOf b) (hostOf b 4)), 7)
      else if 19 ≤ b.length ∧ b.getD 0 0 = t.ipv6 then (some (.ipv6 (portOf b) (hostOf b 16)), 19)
      else (none, 0) := by
  obtain ⟨h04, h06, h46⟩ := tags_ne hd
  cases b with
  | nil => rfl
  | cons x b =>
    simp only [List.getD_cons_zero, List.length_cons, Nat.le_add_left, true_and]
    by_cases h0 : x = t.none
    · simp [decodeAddress, h0]
    by_cases h4 : x = t.ipv4
    · subst h4
      by_cases hl : 6 ≤ b.length
      · simp [decodeAddress_ipv4 hd hl, h04.symm, hl]
      · simp [decodeAddress, h04.symm, h46, hl]
    by_cases h6 : x = t.ipv6
    · subst h6
      by_cases hl : 18 ≤ b.length
      · simp [decodeAddress_ipv6 hd hl, h06.symm, h46.symm, hl]
      · simp [decodeAddress, h06.symm, h46.symm, hl]
    · simp [decodeAddress, h0, h4, h6]

/-- A record's port, behind its tag (R164). -/
theorem portOf_encoded (tag : Byte) (p : Half) (bs : List Byte) :
    portOf (tag :: highByte p :: lowByte p :: bs) = p := bigEndian_highByte_lowByte p

/-- A record's host bytes, behind its tag and port (R162). -/
theorem hostOf_encoded (tag hi lo : Byte) {n : Nat} (h : Vector Byte n) (c : List Byte) :
    hostOf (tag :: hi :: lo :: (h.toList ++ c)) n = h := by
  ext1 i hi
  simp [hostOf, Nat.add_comm 3, List.getElem?_append_left]

/-- Decoding what begins with an encoded record gives the record and its length (R171, R173). -/
theorem decodeAddress_encodeAddress_append {t : Config.Tags} (hd : t.distinct = true) (a : AddressRecord)
    (c : List Byte) : decodeAddress t (encodeAddress t a ++ c) = (some a, (encodeAddress t a).length) := by
  cases a with
  | none => simp [encodeAddress, decodeAddress]
  | ipv4 p h =>
    simp only [encodeAddress, List.cons_append]
    rw [decodeAddress_ipv4 hd (by simp), portOf_encoded, hostOf_encoded]
    simp
  | ipv6 p h =>
    simp only [encodeAddress, List.cons_append]
    rw [decodeAddress_ipv6 hd (by simp), portOf_encoded, hostOf_encoded]
    simp

/-- Settles O54: the choice `decode_address` makes, and the encoded record with bytes behind it. -/
theorem decodeRejectsUnknownAndIgnoresTrailing : Obligations.DecodeRejectsUnknownAndIgnoresTrailing := by
  refine fun g hd => ⟨rfl, fun t c h0 h4 h6 => ?_, ?_, fun b a n h => ?_, decodeAddress_encodeAddress_append hd⟩
  · simp [decodeAddress, h0, h4, h6]
  · exact decodeAddress_encodeAddress_append hd .none []
  · rw [decodeAddress_eq hd] at h
    split_ifs at h
    · exact .inl (Prod.mk.inj h).2.symm
    · exact .inr (.inl (Prod.mk.inj h).2.symm)
    · exact .inr (.inr (Prod.mk.inj h).2.symm)
    · cases h

/-! ### One strobe after the other (R171) -/

/-- AD_DECODE takes back the port that AD_ENCODE stored (R164). -/
theorem Cas.portFromBuf_encodeRecord {t : Config.Tags} {c : Cas} (h : 1 < (c.encodeRecord t).len.toNat) :
    (c.encodeRecord t).portFromBuf = c.port := by
  rw [Cas.portFromBuf, readByte_encodeRecord_of_lt h, readByte_encodeRecord_of_lt (Cas.encodeRecord_len_port h)]
  exact bigEndian_highByte_lowByte c.port

/-- AD_DECODE takes back the host bytes that AD_ENCODE stored, and so leaves HOST as it was (R171). -/
theorem Cas.hostFromBuf_encodeRecord {t : Config.Tags} {c : Cas} {n : Nat}
    (h : 3 + n ≤ (c.encodeRecord t).len.toNat) : (c.encodeRecord t).hostFromBuf n = c.host := by
  apply eq_of_readByte
  intro k hk
  rw [readByte_hostFromBuf _ n k hk, Cas.encodeRecord_host]
  split
  next hn =>
    rw [readByte_encodeRecord_of_lt (by omega), if_neg (by omega), if_neg (by omega), if_neg (by omega),
      Nat.add_sub_cancel]
  next => rfl

/-- AD_DECODE after AD_ENCODE of a record changes RESULT alone (R171). -/
theorem Cas.decodeRecord_encodeRecord {t : Config.Tags} (hd : t.distinct = true) {c : Cas} (h : c.type ≠ 3) :
    (c.encodeRecord t).decodeRecord t = { c.encodeRecord t with result := (c.encodeRecord t).len } := by
  have htag (hpos : 0 < (c.encodeRecord t).len.toNat) : readByte (c.encodeRecord t).buf 0 = c.tagByte t :=
    readByte_encodeRecord_of_lt hpos
  obtain htype | htype | htype | htype := c.type_cases
  · have hlen : (c.encodeRecord t).len = 1 := by rw [Cas.encodeRecord_none htype]
    have hnat : (c.encodeRecord t).len.toNat = 1 := congrArg BitVec.toNat hlen
    rw [Cas.decodeRecord_none (by omega) ((htag (by omega)).trans (Cas.tagByte_none htype)), hlen,
      Cas.encodeRecord_none htype, ← htype]
  · have hlen : (c.encodeRecord t).len = 7 := by rw [Cas.encodeRecord_ipv4 htype]
    have hnat : (c.encodeRecord t).len.toNat = 7 := congrArg BitVec.toNat hlen
    rw [Cas.decodeRecord_ipv4 hd (by omega) ((htag (by omega)).trans (Cas.tagByte_ipv4 htype)),
      Cas.portFromBuf_encodeRecord (by omega), Cas.hostFromBuf_encodeRecord (by omega), hlen,
      Cas.encodeRecord_ipv4 htype, ← htype]
  · have hlen : (c.encodeRecord t).len = 19 := by rw [Cas.encodeRecord_ipv6 htype]
    have hnat : (c.encodeRecord t).len.toNat = 19 := congrArg BitVec.toNat hlen
    rw [Cas.decodeRecord_ipv6 hd (by omega) ((htag (by omega)).trans (Cas.tagByte_ipv6 htype)),
      Cas.portFromBuf_encodeRecord (by omega), Cas.hostFromBuf_encodeRecord (by omega), hlen,
      Cas.encodeRecord_ipv6 htype, ← htype]
  · exact absurd htype h

/-- A read leaves CAS as it is (R54, R166). -/
theorem casAfter_of_read {i : Instr} {off : Byte} (h : decode (readPacket off) = .ok i) (c : Cas) :
    casAfter i c = c := by
  by_cases hrx : i = .rdLctRxdata
  · rw [hrx]
    rfl
  · obtain ⟨v, hv⟩ := exec_read (encode_of_readInstr (decode_readPacket_iff.mp h)) hrx (State.reset.setCas c)
    exact (cas_draws_of_exec hv).1.symm

/-- Reads and pulses leave CAS as it is (R2, R54). -/
theorem casAfterAll_of_reads_pulses {is : List Instr}
    (h : ∀ i ∈ is, (∃ off, decode (readPacket off) = .ok i) ∨ ∃ si, i = .pulse si) (c : Cas) :
    casAfterAll is c = c := by
  induction is with
  | nil => rfl
  | cons i is ih =>
    obtain ⟨hi, his⟩ := List.forall_mem_cons.mp h
    rw [casAfterAll_cons]
    obtain ⟨off, hoff⟩ | ⟨si, rfl⟩ := hi
    · rw [casAfter_of_read hoff]
      exact ih his
    · exact ih his

/-- Settles O53: the functions, and the two strobes with operations in between that leave CAS as it is. -/
theorem encodedAddressDecodesToItself : Obligations.EncodedAddressDecodesToItself := by
  refine ⟨fun g a hd => ?_, fun v w mid s htype hmid => ?_⟩
  · simpa using decodeAddress_encodeAddress_append hd a []
  · obtain ⟨outs, u, hrun, hu⟩ := runOps_cas (.wrAdEncode v :: mid ++ [.wrAdDecode w]) s
    replace hu : u.cas = (s.cas.encodeRecord Config.tags).decodeRecord Config.tags := by
      rw [hu, List.cons_append, casAfterAll_cons, casAfterAll_append, casAfterAll_of_reads_pulses hmid]
      rfl
    rw [Cas.decodeRecord_encodeRecord Config_tags_distinct htype] at hu
    refine ⟨outs, u, hrun, ?_⟩
    simp [hu]

end Sys2Proof.Machine

/-! PROOF. 42_address.md, continued: the host's sequences of accesses that encode and decode a record (R84, R169, R170),
by the record or the list that the registers hold. -/

namespace Sys2Proof.Machine

/-! ### Accesses one after the other (R84) -/

/-- Accesses outside LCT run on to the end, leave LCT alone, and do to CAS what each does, one after the other. -/
theorem accesses_cas {is : List Instr} (h : ∀ i ∈ is, i.subBlock ≠ .lct) (s : State) :
    ∃ t, accesses is s = some t ∧ t.lct = s.lct ∧ t.cas = casAfterAll is s.cas := by
  induction is generalizing s with
  | nil => exact ⟨s, rfl, rfl, rfl⟩
  | cons i is ih =>
    obtain ⟨hi, his⟩ := List.forall_mem_cons.mp h
    obtain ⟨u, hu⟩ := exec_completes i s
    obtain ⟨t, ht, hlct, hcas⟩ := ih his u
    obtain ⟨hucas, _⟩ := cas_draws_of_exec hu
    have hulct : u.lct = s.lct := (lct_of_exec hu).trans (lctAfter_of_subBlock_ne hi s)
    exact ⟨t, (accesses_cons hu).trans ht, hlct.trans hulct, by rw [hcas, hucas, casAfterAll_cons]⟩

/-- Reads of a byte array's registers, from register `k` up, answer its bytes and change neither sub-block. -/
theorem readAllBytes_registers {n : Nat} {f : Cas → Vector Byte n} {is : List Instr} {k : Nat}
    (h : ∀ j i, is[j]? = some i → ∀ s, exec i s = .next (s.answer (readRegister (f s.cas) (k + j)))) (s : State) :
    ∃ t, readAllBytes is s = some (readBytes (f s.cas) (4 * k) (4 * is.length), t) ∧ t.lct = s.lct ∧
      t.cas = s.cas := by
  induction is generalizing k s with
  | nil => exact ⟨s, rfl, rfl, rfl⟩
  | cons i is ih =>
    have hnext : ∀ j i', is[j]? = some i' →
        ∀ s, exec i' s = .next (s.answer (readRegister (f s.cas) (k + 1 + j))) := by
      intro j i' hj
      rw [Nat.add_assoc, Nat.add_comm 1]
      exact h (j + 1) i' hj
    obtain ⟨t, ht, hlct, hcas⟩ := ih hnext (s.answer (readRegister (f s.cas) k))
    refine ⟨t, ?_, hlct, hcas⟩
    rw [readAllBytes_cons (h 0 i rfl s), Nat.add_zero, ht, List.length_cons,
      show 4 * (is.length + 1) = 4 + 4 * is.length by omega, readBytes_add, ← bytesOfWord_readRegister]
    rfl

/-- An element of a list's beginning is the list's. -/
theorem getElem?_of_getElem?_take {α : Type} {l : List α} {m j : Nat} {x : α} (h : (l.take m)[j]? = some x) :
    l[j]? = some x := by
  rw [List.getElem?_take] at h
  split at h
  next => exact h
  next => cases h

/-- The first `m` HOST registers read (R166). -/
theorem readAllBytes_hostReads (m : Nat) (s : State) :
    ∃ t, readAllBytes (hostReads.take m) s = some (readBytes s.cas.host 0 (4 * (hostReads.take m).length), t) ∧
      t.lct = s.lct ∧ t.cas = s.cas := by
  refine readAllBytes_registers (f := Cas.host) (k := 0) (fun j i h s => ?_) s
  rw [Nat.zero_add]
  exact exec_hostReads (getElem?_of_getElem?_take h) s

/-- The first `m` BUF registers read (R166). -/
theorem readAllBytes_bufReads (m : Nat) (s : State) :
    ∃ t, readAllBytes (bufReads.take m) s = some (readBytes s.cas.buf 0 (4 * (bufReads.take m).length), t) ∧
      t.lct = s.lct ∧ t.cas = s.cas := by
  refine readAllBytes_registers (f := Cas.buf) (k := 0) (fun j i h s => ?_) s
  rw [Nat.zero_add]
  exact exec_bufReads (getElem?_of_getElem?_take h) s

/-- The array after its first `m` registers are written with a list's bytes, 0 past the list's end (R169, R170). -/
def fillRegisters {n : Nat} (a : Vector Byte n) (b : List Byte) : Nat → Vector Byte n
  | 0 => a
  | m + 1 => writeRegister (fillRegisters a b m) m (listRegister b m)

/-- Byte `j` of the register value that a list gives (R32, R35). -/
theorem extractLsb'_listRegister (b : List Byte) (k : Nat) {j : Nat} (hj : j < 4) :
    (listRegister b k).extractLsb' (8 * j) 8 = b.getD (4 * k + j) 0 := by
  rw [← getD_bytesOfWord _ j hj, bytesOfWord_listRegister]
  interval_cases j <;> rfl

/-- Every byte of an array filled from a list. -/
theorem readByte_fillRegisters {n : Nat} (a : Vector Byte n) (b : List Byte) (m : Nat) {i : Nat} (hi : i < n) :
    readByte (fillRegisters a b m) i = if i < 4 * m then b.getD i 0 else readByte a i := by
  induction m with
  | zero => rfl
  | succ m ih =>
    rw [fillRegisters, readByte_writeRegister, ih]
    by_cases hlt : i < 4 * m
    · rw [if_neg (by omega), if_pos hlt, if_pos (by omega)]
    by_cases hm : i < 4 * (m + 1)
    · rw [if_pos (by omega), if_pos hm, extractLsb'_listRegister b m (by omega), Nat.add_sub_cancel' (by omega)]
    · rw [if_neg (by omega), if_neg hlt, if_neg hm]

/-- What the host's writes of a record leave in TYPE, PORT and HOST (R169). -/
theorem casAfterAll_loadRecord (a : AddressRecord) (c : Cas) :
    casAfterAll (loadRecord a) c = { c with
      type := typeField (recordType a), port := halfField (recordPort a)
      host := fillRegisters c.host (recordHost a) 4 } := by
  simp only [loadRecord, casAfterAll_cons, casAfterAll_nil, casAfter, fillRegisters]

/-- What the host's writes of a list leave in BUF (R170). -/
theorem casAfterAll_loadBuf (b : List Byte) (c : Cas) :
    casAfterAll (loadBuf b) c = { c with buf := fillRegisters c.buf (b.take 19) 5 } := by
  simp only [loadBuf, casAfterAll_cons, casAfterAll_nil, casAfter, fillRegisters]

/-! ### The record that the registers hold (R30 to R32) -/

/-- The record that TYPE, PORT and HOST spell, if they spell one (R30 to R32). -/
def Cas.record (c : Cas) : Option AddressRecord :=
  recordOfRegisters (c.type.setWidth 32) (c.port.setWidth 32) (readBytes c.host 0 16)

/-- The first `n` bytes of a longer read, as an array. -/
theorem ofFn_getD_readBytes {m : Nat} (a : Vector Byte m) {n k : Nat} (h : n ≤ k) :
    (Vector.ofFn fun i : Fin n => (readBytes a 0 k).getD i 0) = Vector.ofFn fun i : Fin n => readByte a i := by
  congr 1
  funext i
  rw [getD_readBytes _ _ _ _ (by omega), Nat.zero_add]

/-- An IPv4 record takes the first four host bytes of those read (R30 to R32). -/
theorem recordOfRegisters_ipv4 (p : Half) {n : Nat} (h : Vector Byte n) {k : Nat} (hk : 4 ≤ k) :
    recordOfRegisters 1 (p.setWidth 32) (readBytes h 0 k) =
      some (.ipv4 p (Vector.ofFn fun i => readByte h i)) := by
  rw [recordOfRegisters, if_neg (by decide), if_pos rfl, halfField_setWidth, ofFn_getD_readBytes h hk]

/-- An IPv6 record takes the first sixteen host bytes of those read (R30 to R32). -/
theorem recordOfRegisters_ipv6 (p : Half) {n : Nat} (h : Vector Byte n) {k : Nat} (hk : 16 ≤ k) :
    recordOfRegisters 2 (p.setWidth 32) (readBytes h 0 k) =
      some (.ipv6 p (Vector.ofFn fun i => readByte h i)) := by
  rw [recordOfRegisters, if_neg (by decide), if_neg (by decide), if_pos rfl, halfField_setWidth,
    ofFn_getD_readBytes h hk]

theorem Cas.record_none {c : Cas} (h : c.type = 0) : c.record = some .none := by
  rw [Cas.record, h]
  rfl

theorem Cas.record_ipv4 {c : Cas} (h : c.type = 1) :
    c.record = some (.ipv4 c.port (Vector.ofFn fun i => readByte c.host i)) := by
  rw [Cas.record, h]
  exact recordOfRegisters_ipv4 c.port c.host (by decide)

theorem Cas.record_ipv6 {c : Cas} (h : c.type = 2) :
    c.record = some (.ipv6 c.port (Vector.ofFn fun i => readByte c.host i)) := by
  rw [Cas.record, h]
  exact recordOfRegisters_ipv6 c.port c.host (by decide)

theorem Cas.record_noVariant {c : Cas} (h : c.type = 3) : c.record = none := by
  rw [Cas.record, h]
  rfl

/-! ### The encode sequences (R84, R169) -/

/-- An array filled from another's bytes begins with them. -/
theorem ofFn_readByte_fillRegisters {m n k : Nat} (a : Vector Byte m) (h : Vector Byte n) (hn : n ≤ m)
    (hk : n ≤ 4 * k) : (Vector.ofFn fun i : Fin n => readByte (fillRegisters a h.toList k) i) = h := by
  ext1 i hi
  rw [Vector.getElem_ofFn, readByte_fillRegisters _ _ _ (by omega), if_pos (by omega)]
  simp [hi]

/-- The host's writes of a record leave that record in the registers (R169). -/
theorem Cas.record_loadRecord (a : AddressRecord) (c : Cas) : (casAfterAll (loadRecord a) c).record = some a := by
  rw [casAfterAll_loadRecord]
  cases a with
  | none => exact Cas.record_none rfl
  | ipv4 p h =>
    refine (Cas.record_ipv4 rfl).trans ?_
    simp only [recordPort, recordHost, halfField_setWidth]
    rw [ofFn_readByte_fillRegisters c.host h (by decide) (by decide)]
  | ipv6 p h =>
    refine (Cas.record_ipv6 rfl).trans ?_
    simp only [recordPort, recordHost, halfField_setWidth]
    rw [ofFn_readByte_fillRegisters c.host h (by decide) (by decide)]

/-- The first bytes of an array, as a list. -/
theorem toList_ofFn_readByte {m : Nat} (a : Vector Byte m) (n : Nat) :
    (Vector.ofFn fun i : Fin n => readByte a i).toList = readBytes a 0 n := by
  apply List.ext_getElem?
  intro k
  by_cases hk : k < n
  · rw [getElem?_readBytes _ _ _ _ hk]
    simp [hk]
  · simp [hk]

/-- BUF begins with the tag, the port and the host bytes that were stored in it (R160). -/
theorem readBytes_bufWith (c : Cas) (tag : Byte) {n : Nat} (hn : n ≤ 16) :
    readBytes (c.bufWith tag n) 0 (n + 3) = tag :: highByte c.port :: lowByte c.port :: readBytes c.host 0 n := by
  have h := readBytes_writeBytes c.buf 0 (tag :: highByte c.port :: lowByte c.port :: readBytes c.host 0 n)
    (by simp; omega)
  rwa [List.length_cons, List.length_cons, List.length_cons, length_readBytes] at h

/-- What AD_ENCODE stores of the record in the registers is its encoding (R160, R162). -/
theorem Cas.readBytes_encodeRecord {t : Config.Tags} {c : Cas} {a : AddressRecord} (h : c.record = some a) :
    readBytes (c.encodeRecord t).buf 0 (c.encodeRecord t).len.toNat = encodeAddress t a := by
  obtain htype | htype | htype | htype := c.type_cases
  · rw [Cas.encodeRecord_none htype]
    obtain rfl := Option.some.inj ((Cas.record_none htype).symm.trans h)
    exact readBytes_writeBytes c.buf 0 [t.none] (by simp)
  · rw [Cas.encodeRecord_ipv4 htype]
    obtain rfl := Option.some.inj ((Cas.record_ipv4 htype).symm.trans h)
    rw [encodeAddress, toList_ofFn_readByte]
    exact readBytes_bufWith c t.ipv4 (by decide)
  · rw [Cas.encodeRecord_ipv6 htype]
    obtain rfl := Option.some.inj ((Cas.record_ipv6 htype).symm.trans h)
    rw [encodeAddress, toList_ofFn_readByte]
    exact readBytes_bufWith c t.ipv6 (by decide)
  · rw [Cas.record_noVariant htype] at h
    cases h

/-- The reads after AD_ENCODE (R169) answer the first LEN bytes of BUF and change neither sub-block, if they read as
many. -/
theorem encodeWith_answers {reads : Word → List Instr} {a : AddressRecord} {s u : State} {m : Nat}
    (hrun : accesses (loadRecord a ++ [.wrAdEncode 0]) s = some u)
    (hm : reads (u.cas.len.setWidth 32) = bufReads.take m) (hle : u.cas.len.toNat ≤ 4 * (bufReads.take m).length) :
    ∃ t, encodeWith reads a s = some (readBytes u.cas.buf 0 u.cas.len.toNat, t) ∧ t.lct = u.lct ∧ t.cas = u.cas := by
  obtain ⟨t, hread, hlct, hcas⟩ := readAllBytes_bufReads m (u.answer (u.cas.len.setWidth 32))
  refine ⟨t, ?_, hlct, hcas⟩
  rw [encodeWith, hrun]
  simp only [access_of_exec (exec_rdAdLen u), Option.bind_eq_bind, Option.bind_some, State.readResult_answer, hm,
    hread, BitVec.toNat_setWidth_of_le (by decide : 8 ≤ 32), take_readBytes _ _ hle]
  rfl

/-- An encode sequence answers `encode_address` of its record, whichever registers of BUF it reads, if they hold the
bytes that LEN counts (R84, R169). -/
theorem encodeWith_eq_encodeAddress {reads : Word → List Instr}
    (hreads : ∀ n : Word, n.toNat ≤ 19 → ∃ m, reads n = bufReads.take m ∧ n.toNat ≤ 4 * (bufReads.take m).length)
    (a : AddressRecord) (s : State) :
    ∃ t, encodeWith reads a s = some (encodeAddress Config.tags a, t) ∧ t.lct = s.lct ∧ t.cas.acc = s.cas.acc ∧
      t.cas.expect = s.cas.expect := by
  obtain ⟨u, hrun, hlct, hcas⟩ :=
    accesses_cas (is := loadRecord a ++ [.wrAdEncode 0]) (by simp [loadRecord, Instr.subBlock]) s
  replace hcas : u.cas = (casAfterAll (loadRecord a) s.cas).encodeRecord Config.tags := by
    rw [hcas, casAfterAll_append]
    rfl
  have hnat : (u.cas.len.setWidth 32).toNat = u.cas.len.toNat := BitVec.toNat_setWidth_of_le (by decide)
  have hlen : u.cas.len.toNat ≤ 19 := hcas ▸ Cas.encodeRecord_len_le _ _
  obtain ⟨m, hm, hle⟩ := hreads (u.cas.len.setWidth 32) (by omega)
  obtain ⟨t, hans, htlct, htcas⟩ := encodeWith_answers hrun hm (hnat ▸ hle)
  refine ⟨t, ?_, htlct.trans hlct, ?_, ?_⟩
  · rw [hans, hcas, Cas.readBytes_encodeRecord (Cas.record_loadRecord a s.cas)]
  · rw [htcas, hcas, Cas.encodeRecord_acc, casAfterAll_loadRecord]
  · rw [htcas, hcas, Cas.encodeRecord_expect, casAfterAll_loadRecord]

/-- Settles O51: R169's reads hold the `n` bytes it takes, and all five registers hold more. -/
theorem encodeProcedureGivesWireEncoding : Obligations.EncodeProcedureGivesWireEncoding := by
  refine fun a s => ⟨encodeWith_eq_encodeAddress (fun n hn => ⟨(n.toNat + 3) / 4, rfl, ?_⟩) a s,
    encodeWith_eq_encodeAddress (fun n hn => ⟨5, rfl, ?_⟩) a s⟩
  · rw [List.length_take, show bufReads.length = 5 from rfl]
    omega
  · exact Nat.le_trans hn (by decide)

/-! ### The decode sequences (R84, R170) -/

/-- BUF and LEN hold a list as far as AD_DECODE looks (R161, R170): its first 19 bytes, and its length up to 19. -/
def Cas.HoldsList (c : Cas) (b : List Byte) : Prop :=
  min c.len.toNat 19 = min b.length 19 ∧ ∀ k, k < 19 → k < b.length → readByte c.buf k = b.getD k 0

/-- AD_DECODE tests LEN and the tag as `decode_address` tests the list (R161, R165). -/
theorem Cas.HoldsList.accepts_iff {c : Cas} {b : List Byte} (h : c.HoldsList b) {n : Nat} (h1 : 1 ≤ n)
    (h19 : n ≤ 19) (tag : Byte) :
    (n ≤ b.length ∧ b.getD 0 0 = tag) ↔ (n ≤ c.len.toNat ∧ readByte c.buf 0 = tag) := by
  obtain ⟨hlen, hbuf⟩ := h
  have hn : n ≤ b.length ↔ n ≤ c.len.toNat := by omega
  rw [← hn, and_congr_right_iff]
  intro hb
  rw [hbuf 0 (by decide) (by omega)]

/-- AD_DECODE reads the port of the list (R161, R165). -/
theorem Cas.HoldsList.portFromBuf_eq {c : Cas} {b : List Byte} (h : c.HoldsList b) (hb : 3 ≤ b.length) :
    c.portFromBuf = portOf b := by
  obtain ⟨_, hbuf⟩ := h
  rw [Cas.portFromBuf, portOf, hbuf 1 (by decide) (by omega), hbuf 2 (by decide) (by omega)]

/-- AD_DECODE reads the host bytes of the list (R161, R165). -/
theorem Cas.HoldsList.hostFromBuf_eq {c : Cas} {b : List Byte} (h : c.HoldsList b) {n : Nat} (hn : n ≤ 16)
    (hb : 3 + n ≤ b.length) : (Vector.ofFn fun i : Fin n => readByte (c.hostFromBuf n) i) = hostOf b n := by
  obtain ⟨_, hbuf⟩ := h
  rw [hostOf]
  congr 1
  funext i
  rw [readByte_hostFromBuf _ _ _ (by omega), if_pos i.isLt, hbuf _ (by omega) (by omega), Nat.add_comm]

/-- The answer that the host reads back after AD_DECODE (R170): RESULT and, unless it is 0, the record in the
registers. -/
def Cas.decodeAnswer (c : Cas) : Option AddressRecord × Nat :=
  if c.result = 0 then (none, 0) else (c.record, c.result.toNat)

/-- AD_DECODE leaves the answer of `decode_address` in the registers (R161, R165), variant by variant. -/
theorem Cas.HoldsList.decodeAnswer_decodeRecord {t : Config.Tags} (hd : t.distinct = true) {c : Cas} {b : List Byte}
    (h : c.HoldsList b) : (c.decodeRecord t).decodeAnswer = decodeAddress t b := by
  have hnone := h.accepts_iff (n := 1) (by decide) (by decide) t.none
  have hipv4 := h.accepts_iff (n := 7) (by decide) (by decide) t.ipv4
  have hipv6 := h.accepts_iff (n := 19) (by decide) (by decide) t.ipv6
  rw [decodeAddress_eq hd]
  by_cases h1 : 1 ≤ b.length ∧ b.getD 0 0 = t.none
  · obtain ⟨hlen, htag⟩ := hnone.mp h1
    rw [if_pos h1, Cas.decodeRecord_none hlen htag]
    rfl
  by_cases h7 : 7 ≤ b.length ∧ b.getD 0 0 = t.ipv4
  · obtain ⟨hlen, htag⟩ := hipv4.mp h7
    rw [if_neg h1, if_pos h7, Cas.decodeRecord_ipv4 hd hlen htag, ← h.portFromBuf_eq (by omega),
      ← h.hostFromBuf_eq (by decide) h7.1]
    exact congrArg (·, 7) (Cas.record_ipv4 rfl)
  by_cases h19 : 19 ≤ b.length ∧ b.getD 0 0 = t.ipv6
  · obtain ⟨hlen, htag⟩ := hipv6.mp h19
    rw [if_neg h1, if_neg h7, if_pos h19, Cas.decodeRecord_ipv6 hd hlen htag, ← h.portFromBuf_eq (by omega),
      ← h.hostFromBuf_eq (by decide) h19.1]
    exact congrArg (·, 19) (Cas.record_ipv6 rfl)
  · rw [if_neg h1, if_neg h7, if_neg h19,
      Cas.decodeRecord_rejects (mt hnone.mpr h1) (mt hipv4.mpr h7) (mt hipv6.mpr h19)]
    rfl

/-- A choice of HOST registers to read, by the variant's code, that gives the whole record (R30 to R32). -/
def CoversHost (reads : Word → List Instr) : Prop :=
  ∀ c : Cas, ∃ m, reads (c.type.setWidth 32) = hostReads.take m ∧
    recordOfRegisters (c.type.setWidth 32) (c.port.setWidth 32)
      (readBytes c.host 0 (4 * (hostReads.take m).length)) = c.record

/-- All four HOST registers give the whole record (R84). -/
theorem coversHost_hostReads : CoversHost fun _ => hostReads := fun _ => ⟨4, rfl, rfl⟩

/-- The variant's HOST registers give the whole record (R170). -/
theorem coversHost_variantHostReads : CoversHost variantHostReads := by
  intro c
  obtain htype | htype | htype | htype := c.type_cases
  · rw [htype, Cas.record_none htype]
    exact ⟨0, rfl, rfl⟩
  · rw [htype, Cas.record_ipv4 htype]
    exact ⟨1, rfl, recordOfRegisters_ipv4 _ _ (by decide)⟩
  · rw [htype, Cas.record_ipv6 htype]
    exact ⟨4, rfl, recordOfRegisters_ipv6 _ _ (by decide)⟩
  · rw [htype, Cas.record_noVariant htype]
    exact ⟨0, rfl, rfl⟩

/-- The reads after AD_DECODE (R170) answer what the registers hold and change neither sub-block. -/
theorem decodeWith_answers {reads : Word → List Instr} (hreads : CoversHost reads) {len : Word} {b : List Byte}
    {s u : State} (hrun : accesses (loadBuf b ++ [.wrAdLen len, .wrAdDecode 0]) s = some u) :
    ∃ t, decodeWith len reads b s = some (u.cas.decodeAnswer, t) ∧ t.lct = u.lct ∧ t.cas = u.cas := by
  have hzero : u.cas.result.setWidth 32 = 0 ↔ u.cas.result = 0 := by bv_omega
  have hnat : (u.cas.result.setWidth 32).toNat = u.cas.result.toNat := BitVec.toNat_setWidth_of_le (by decide)
  rw [decodeWith, hrun]
  simp only [Option.bind_eq_bind, Option.bind_some, access_of_exec (exec_rdAdResult _), State.readResult_answer, hzero]
  by_cases h0 : u.cas.result = 0
  · rw [if_pos h0, Cas.decodeAnswer, if_pos h0]
    exact ⟨_, rfl, rfl, rfl⟩
  · obtain ⟨m, hm, hrec⟩ := hreads u.cas
    obtain ⟨t, hread, hlct, hcas⟩ := readAllBytes_hostReads m
      (((u.answer (u.cas.result.setWidth 32)).answer (u.cas.type.setWidth 32)).answer (u.cas.port.setWidth 32))
    refine ⟨t, ?_, hlct, hcas⟩
    rw [if_neg h0, Cas.decodeAnswer, if_neg h0, ← hrec, ← hnat]
    simp only [access_of_exec (exec_rdAdType _), access_of_exec (exec_rdAdPort _), Option.bind_some,
      State.readResult_answer, State.answer_cas, hm, hread]

/-- After the host's writes of a list, BUF and LEN hold each beginning of it that has the length written (R170). -/
theorem Cas.holdsList_loadBuf {b b' : List Byte} {len : Word} {c : Cas} (hpre : b' <+: b)
    (hlen : min (byteField len).toNat 19 = min b'.length 19) :
    Cas.HoldsList { casAfterAll (loadBuf b) c with len := byteField len } b' := by
  refine ⟨hlen, fun k hk hb => ?_⟩
  obtain ⟨d, rfl⟩ := hpre
  rw [casAfterAll_loadBuf]
  change readByte (fillRegisters c.buf ((b' ++ d).take 19) 5) k = _
  rw [readByte_fillRegisters _ _ _ (by omega), if_pos (by omega)]
  simp [hk, List.getElem?_append_left hb]

/-- A decode sequence answers `decode_address` of each beginning of its list that has the length written, up to 19
(R84, R170). -/
theorem decodeWith_eq_decodeAddress {reads : Word → List Instr} (hreads : CoversHost reads) {len : Word}
    {b b' : List Byte} (hpre : b' <+: b) (hlen : min (byteField len).toNat 19 = min b'.length 19) (s : State) :
    ∃ t, decodeWith len reads b s = some (decodeAddress Config.tags b', t) ∧ t.lct = s.lct ∧
      t.cas.acc = s.cas.acc ∧ t.cas.expect = s.cas.expect := by
  obtain ⟨u, hrun, hlct, hcas⟩ :=
    accesses_cas (is := loadBuf b ++ [.wrAdLen len, .wrAdDecode 0]) (by simp [loadBuf, Instr.subBlock]) s
  replace hcas : u.cas =
      Cas.decodeRecord Config.tags { casAfterAll (loadBuf b) s.cas with len := byteField len } := by
    rw [hcas, casAfterAll_append]
    rfl
  obtain ⟨t, hans, htlct, htcas⟩ := decodeWith_answers hreads hrun
  refine ⟨t, ?_, htlct.trans hlct, ?_, ?_⟩
  · rw [hans, hcas, (Cas.holdsList_loadBuf hpre hlen).decodeAnswer_decodeRecord Config_tags_distinct]
  · rw [htcas, hcas, Cas.decodeRecord_acc, casAfterAll_loadBuf]
  · rw [htcas, hcas, Cas.decodeRecord_expect, casAfterAll_loadBuf]

/-- Settles O52: R170's length is the list's up to 19, and R84's is that of the first `n mod 256` bytes. -/
theorem decodeProcedureGivesDecodedRecord : Obligations.DecodeProcedureGivesDecodedRecord := by
  refine fun b s => ⟨decodeWith_eq_decodeAddress coversHost_variantHostReads (List.prefix_refl b) ?_ s,
    decodeWith_eq_decodeAddress coversHost_hostReads (List.take_prefix _ b) ?_ s⟩
  · rw [toNat_byteField, BitVec.toNat_ofNat]
    omega
  · rw [toNat_byteField, BitVec.toNat_ofNat, List.length_take]
    omega

end Sys2Proof.Machine

/-! PROOF. The statements of 43_frame.md: `frame_check`, its procedure over the registers, and gate 3 of the session. All
three begin with the same gates (R180, R181), so what those gates answer is said once. -/

namespace Sys2Proof.Machine

/-! ### The gates before the checksum (R180, R181) -/

/-- The precondition and gates 2 and 1, around what is done with a frame that passes them: the beginning that
`frame_check`, its procedure and the session's gates share (R181, R185, R186). -/
def lengthGates {α : Type} (m : Nat) (c : FrameCall) (refused drop rest : α) : α :=
  if !c.wellFormed then refused
  else if c.requested = 0 then drop
  else if frameLength m c ≤ 2 then drop
  else rest

theorem frameCheck_eq_lengthGates (m : Nat) (c : FrameCall) :
    frameCheck m c = lengthGates m c .refused .drop
      (if !verify (frameBody m c) (frameTrailer m c) then .drop else frameAccepted m c) := rfl

theorem frameCheckInSession_eq_lengthGates (exclusive : Byte → Bool) (active : Bool) (m : Nat) (c : FrameCall) :
    frameCheckInSession exclusive active m c = lengthGates m c .refused .drop
      (if gate3Drops exclusive active (c.buf.getD 0 0) then .drop
        else if !verify (frameBody m c) (frameTrailer m c) then .drop else frameAccepted m c) := rfl

section
variable {α β : Type} {m : Nat} {c : FrameCall}

/-- A call is legal when the bytes delivered exist (R180). -/
theorem FrameCall_wellFormed_iff : c.wellFormed = true ↔ c.delivered ≤ c.buf.length := decide_eq_true_iff

/-- An illegal call is refused before any gate (R180, log 22). -/
theorem lengthGates_of_illegal (h : c.buf.length < c.delivered) (r d x : α) : lengthGates m c r d x = r := by
  have hwf : ¬ c.wellFormed = true := by rw [FrameCall_wellFormed_iff]; omega
  simp [lengthGates, hwf]

/-- A legal call meets one gate: a requested length of zero clamps to a frame that is too short as well (R182). -/
theorem lengthGates_of_legal (h : c.delivered ≤ c.buf.length) (r d x : α) :
    lengthGates m c r d x = if 2 < frameLength m c then x else d := by
  have hwf : c.wellFormed = true := FrameCall_wellFormed_iff.mpr h
  by_cases hlong : 2 < frameLength m c
  · have h0 : c.requested ≠ 0 := by
      simp only [frameLength] at hlong
      omega
    simp [lengthGates, hwf, h0, hlong]
  · simp [lengthGates, hwf, hlong, Nat.not_lt.mp hlong]

/-- What is done with the outcome can be done in each branch of the gates. -/
theorem apply_lengthGates (f : α → β) (r d x : α) :
    f (lengthGates m c r d x) = lengthGates m c (f r) (f d) (f x) := by
  simp only [lengthGates, apply_ite f]

/-! ### The parts of a frame (R181, R183) -/

theorem frameBody_eq_take (m : Nat) (c : FrameCall) : frameBody m c = c.buf.take (frameLength m c - 2) := rfl

/-- A legal frame's bytes exist. -/
theorem frameLength_le_length (h : c.delivered ≤ c.buf.length) : frameLength m c ≤ c.buf.length := by
  simp only [frameLength]
  omega

/-- Byte `L - 2` of the call's list, the trailer's high byte (R73, R181). -/
def frameTrailerHigh (m : Nat) (c : FrameCall) : Byte := c.buf.getD (frameLength m c - 2) 0

/-- Byte `L - 1` of the call's list, the trailer's low byte (R73, R181). -/
def frameTrailerLow (m : Nat) (c : FrameCall) : Byte := c.buf.getD (frameLength m c - 1) 0

/-- The trailer is the last two bytes of the clamped frame. -/
theorem frameTrailer_eq_pair (h : c.delivered ≤ c.buf.length) (hlong : 2 < frameLength m c) :
    frameTrailer m c = [frameTrailerHigh m c, frameTrailerLow m c] := by
  have hlen := frameLength_le_length (m := m) h
  obtain ⟨k, hk⟩ : ∃ k, frameLength m c = k + 2 := ⟨frameLength m c - 2, by omega⟩
  rw [hk] at hlen
  have h0 : k < c.buf.length := by omega
  have h1 : k + 1 < c.buf.length := by omega
  rw [frameTrailer, slice, frameTrailerHigh, frameTrailerLow, hk, List.drop_take, Nat.add_sub_cancel,
    Nat.add_sub_cancel_left, List.drop_eq_getElem_cons h0, List.drop_eq_getElem_cons h1, List.getD_eq_getElem _ _ h0]
  exact congrArg (fun x => [c.buf[k], x]) (List.getD_eq_getElem _ 0 h1).symm

/-- Gate 4 as a statement about numbers: the trailer, big-endian, is the checksum of the bytes before it (R150, R181). -/
theorem verify_frame_iff (h : c.delivered ≤ c.buf.length) (hlong : 2 < frameLength m c) :
    verify (frameBody m c) (frameTrailer m c) = true ↔
      (frameTrailerHigh m c).toNat * 256 + (frameTrailerLow m c).toNat =
        (checksum (c.buf.take (frameLength m c - 2))).toNat := by
  rw [frameTrailer_eq_pair h hlong, verify_iff_toNat, frameBody_eq_take]

/-- The payload is the `L - 3` bytes after the command id. -/
theorem slice_payload (b : List Byte) (n : Nat) : slice b 1 (n - 2) = (b.drop 1).take (n - 3) := by
  rw [slice, List.drop_take, Nat.sub_sub]

/-- All bytes of a legal frame's payload exist. -/
theorem length_payload (h : c.delivered ≤ c.buf.length) :
    ((c.buf.drop 1).take (frameLength m c - 3)).length = frameLength m c - 3 := by
  have hlen := frameLength_le_length (m := m) h
  rw [List.length_take, List.length_drop]
  omega

/-- A byte that exists is the one read. -/
theorem getElem?_eq_some_iff_getD {b : List Byte} {i : Nat} (h : i < b.length) {x : Byte} :
    b[i]? = some x ↔ b.getD i 0 = x := by
  simp [h]

/-! ### What `frame_check` answers (R181) -/

theorem frameCheck_of_illegal (h : c.buf.length < c.delivered) : frameCheck m c = .refused :=
  lengthGates_of_illegal h _ _ _

/-- A legal call is accepted or dropped: it is never refused (R181). -/
theorem frameCheck_of_legal (h : c.delivered ≤ c.buf.length) :
    frameCheck m c =
      if 2 < frameLength m c ∧ verify (frameBody m c) (frameTrailer m c) = true then frameAccepted m c else .drop := by
  rw [frameCheck_eq_lengthGates, lengthGates_of_legal h, ite_and]
  cases verify (frameBody m c) (frameTrailer m c) <;> rfl

theorem frameCheck_eq_refused_iff : frameCheck m c = .refused ↔ c.buf.length < c.delivered := by
  refine ⟨fun href => Nat.lt_of_not_le fun h => ?_, frameCheck_of_illegal⟩
  rw [frameCheck_of_legal h] at href
  split at href <;> cases href

/-- Acceptance, gate by gate, with the two things the accepted frame carries (R181, R183). -/
theorem frameCheck_eq_accept_iff {id : Byte} {payload : List Byte} :
    frameCheck m c = .accept id payload ↔ c.delivered ≤ c.buf.length ∧ 2 < frameLength m c ∧
      verify (frameBody m c) (frameTrailer m c) = true ∧ c.buf.getD 0 0 = id ∧
      (c.buf.drop 1).take (frameLength m c - 3) = payload := by
  rcases Nat.lt_or_ge c.buf.length c.delivered with h | h
  · simp [frameCheck_of_illegal h, h]
  · rw [frameCheck_of_legal h, frameAccepted, slice_payload]
    by_cases hgates : 2 < frameLength m c ∧ verify (frameBody m c) (frameTrailer m c) = true
    · simp [h, hgates]
    · rw [if_neg hgates]
      exact ⟨fun hdrop => (nomatch hdrop), fun ⟨_, hlong, hverify, _⟩ => absurd ⟨hlong, hverify⟩ hgates⟩

end

/-! ### The procedure over the registers (R185) -/

/-- The procedure answers the same, with the same end state, whichever side orders the trailer's bytes (R57 beside
R185). -/
theorem procFrameCheck_eq_blockFrameCheck (m : Nat) (c : FrameCall) (s : State) :
    procFrameCheck m c s = blockFrameCheck m c s := by
  have hload : hostLoadTrailer = blockLoadTrailer := funext₂ fun hi lo => funext (hostLoadTrailer_eq hi lo)
  rw [procFrameCheck, blockFrameCheck, hload]

/-- The state with a list's checksum in ACC and a trailer in EXPECT, the only fields a verification changes. -/
def State.verifying (s : State) (b : List Byte) (hi lo : Byte) : State :=
  s.setCas { s.cas with acc := checksum b, expect := bigEndian hi lo }

/-- The block's load of the trailer, after CHECKSUM's writes (R57, R148). -/
theorem blockLoadTrailer_setAcc (s : State) (b : List Byte) (hi lo : Byte) :
    blockLoadTrailer hi lo (s.setAcc (checksum b)).done = some (s.verifying b hi lo).done := rfl

/-- The state after such a verification, its last access the read of CK_STATUS (R150). -/
def State.verified (s : State) (b : List Byte) (hi lo : Byte) : State :=
  (s.verifying b hi lo).answer (zextBit (verify b [hi, lo]))

/-- CK_STATUS read from such a state: bit 0 is whether the list verifies (R145, R150). -/
theorem access_rdCkStatus_verifying (s : State) (b : List Byte) (hi lo : Byte) :
    access .rdCkStatus (s.verifying b hi lo).done =
      some (zextBit (verify b [hi, lo]), s.verified b hi lo) := by
  have hmatch : (s.verifying b hi lo).done.cas.matches = verify b [hi, lo] := Cas.matches_eq_verify rfl rfl
  rw [access_of_exec (exec_rdCkStatus _), hmatch]
  rfl

/-- The procedure passes the same gates; a frame that reaches gate 4 is answered by CK_STATUS (R185). -/
theorem blockFrameCheck_eq_lengthGates (m : Nat) (c : FrameCall) (s : State) :
    blockFrameCheck m c s = lengthGates m c (some (.refused, s)) (some (.drop, s))
      (some (if verify (frameBody m c) [frameTrailerHigh m c, frameTrailerLow m c] then frameAccepted m c else .drop,
        s.verified (frameBody m c) (frameTrailerHigh m c) (frameTrailerLow m c))) := by
  simp only [blockFrameCheck, frameCheckWith, lengthGates, frameTrailerHigh, frameTrailerLow,
    accesses_clear_feedBytes, blockLoadTrailer_setAcc, access_rdCkStatus_verifying, Option.bind_eq_bind,
    Option.bind_some, zextBit_getLsbD, decide_true, Bool.and_true]
  rfl

/-- A frame that passes the gates of length is answered from the state after CK_STATUS. -/
theorem blockFrameCheck_of_long {m : Nat} {c : FrameCall} (h : c.delivered ≤ c.buf.length)
    (hlong : 2 < frameLength m c) (s : State) :
    blockFrameCheck m c s =
      some (frameCheck m c, s.verified (frameBody m c) (frameTrailerHigh m c) (frameTrailerLow m c)) := by
  rw [blockFrameCheck_eq_lengthGates, lengthGates_of_legal h, if_pos hlong, frameCheck_of_legal h,
    frameTrailer_eq_pair h hlong]
  simp only [hlong, true_and]

/-- A frame that is too short, or that an illegal call claims, is answered before any access. -/
theorem blockFrameCheck_of_not_long {m : Nat} {c : FrameCall}
    (h : c.delivered ≤ c.buf.length → ¬ 2 < frameLength m c) (s : State) :
    blockFrameCheck m c s = some (frameCheck m c, s) := by
  rw [blockFrameCheck_eq_lengthGates]
  rcases Nat.lt_or_ge c.buf.length c.delivered with hillegal | hlegal
  · rw [lengthGates_of_illegal hillegal, frameCheck_of_illegal hillegal]
  · rw [lengthGates_of_legal hlegal, if_neg (h hlegal), frameCheck_of_legal hlegal,
      if_neg (fun hgates => h hlegal hgates.1)]

/-! ### The statements -/

/-- Settles O57: the gates before it are shared, and gates 3 and 4 drop a frame in either order. -/
theorem sessionGatePositionIsUnobservable : Obligations.SessionGatePositionIsUnobservable := by
  intro exclusive active m c
  rw [frameCheckInSession_eq_lengthGates, frameCheck_eq_lengthGates, apply_lengthGates (gate3After exclusive active)]
  cases verify (frameBody m c) (frameTrailer m c) with
  | false => simp [gate3After]
  | true => simp [gate3After, frameAccepted]

/-- Settles O55: refusal and acceptance by their own conditions, the trailer as a number; a drop is what is left. -/
theorem frameAcceptedExactlyWhenGatesPass : Obligations.FrameAcceptedExactlyWhenGatesPass := by
  refine fun m c => ⟨frameCheck_eq_refused_iff, fun id payload => frameCheck_eq_accept_iff.trans ?_, ?_⟩
  · refine and_congr_right fun h => ⟨?_, ?_⟩
    · rintro ⟨hlong, hverify, hid, rfl⟩
      have hlen := frameLength_le_length (m := m) h
      exact ⟨frameLength m c, frameTrailerHigh m c, frameTrailerLow m c, rfl, hlong,
        (getElem?_eq_some_iff_getD (by omega)).mpr rfl, (getElem?_eq_some_iff_getD (by omega)).mpr rfl,
        (verify_frame_iff h hlong).mp hverify, (getElem?_eq_some_iff_getD (by omega)).mpr hid, rfl,
        length_payload h⟩
    · rintro ⟨n, hi, lo, hn, hlong, hhi, hlo, hsum, hid, hpayload, -⟩
      obtain rfl : n = frameLength m c := hn
      have hlen := frameLength_le_length (m := m) h
      obtain rfl : frameTrailerHigh m c = hi := (getElem?_eq_some_iff_getD (by omega)).mp hhi
      obtain rfl : frameTrailerLow m c = lo := (getElem?_eq_some_iff_getD (by omega)).mp hlo
      exact ⟨hlong, (verify_frame_iff h hlong).mpr hsum, (getElem?_eq_some_iff_getD (by omega)).mp hid,
        hpayload.symm⟩
  · cases frameCheck m c <;> simp

/-- Settles O56: an answer before the first access leaves the state, and an answer by CK_STATUS comes after ACC and EXPECT
were written. -/
theorem frameProcedureComputesFrameCheck : Obligations.FrameProcedureComputesFrameCheck := by
  intro m c s
  simp only [procFrameCheck_eq_blockFrameCheck]
  by_cases h : c.delivered ≤ c.buf.length ∧ 2 < frameLength m c
  · obtain ⟨hlegal, hlong⟩ := h
    have hblock := blockFrameCheck_of_long hlegal hlong s
    exact ⟨_, _, _, hblock, hblock, rfl, rfl, rfl⟩
  · have hblock := blockFrameCheck_of_not_long (fun hlegal hlong => h ⟨hlegal, hlong⟩) s
    exact ⟨s, s.cas.acc, s.cas.expect, hblock, hblock, rfl, rfl, rfl⟩

end Sys2Proof.Machine

/-! PROOF. The statements of 60_exceptions.md: what moves the level IRQ (R202), and what takes an asserted request down
(R204). IRQ is IE AND RXV, so each of its moves is a write of LCT_CTRL that stores another IE, or a move of RXV. -/

namespace Sys2Proof.Machine

/-! ### What moves IE (R103) -/

/-- A write of LCT_CTRL stores IE, whether or not the width changes (R103). -/
@[simp] theorem Lct.writeCtrl_ie (l : Lct) (v : Word) : (l.writeCtrl v).ie = v.getLsbD 2 := rfl

/-- Only a write of LCT_CTRL moves IE (R103). -/
theorem lctAfter_ie {i : Instr} (h : ∀ v, i ≠ .wrLctCtrl v) (s : State) : (lctAfter i s).ie = s.lct.ie := by
  cases i with
  | wrLctCtrl v => exact absurd rfl (h v)
  | pulse si =>
    cases hen : s.lct.en with
    | true => rw [lctAfter_pulse_enabled si hen, Lct.exchange_ie]
    | false => rw [lctAfter_pulse_disabled si hen]
  | _ => rfl

/-- An operation after which IE holds a value it did not hold before is a write of LCT_CTRL of that value. -/
theorem ie_moves {i : Instr} {s : State} {b : Bool} (hs : s.lct.ie ≠ b) (h : (lctAfter i s).ie = b) :
    ∃ v, i = .wrLctCtrl v ∧ v.getLsbD 2 = b := by
  by_contra hno
  have hne : ∀ v, i ≠ .wrLctCtrl v := by
    rintro v rfl
    exact hno ⟨v, rfl, (Lct.writeCtrl_ie s.lct v).symm.trans h⟩
  exact hs ((lctAfter_ie hne s).symm.trans h)

/-! ### What moves IRQ (R202, R204) -/

/-- The request is up while a word is held and IE is set (R202). -/
theorem State.irq_eq_true_iff (s : State) : s.irq = true ↔ s.lct.ie = true ∧ s.lct.rxv = true := by
  rw [State.irq_eq, Bool.and_eq_true]

/-- The request is down as soon as one of the two is 0 (R202). -/
theorem State.irq_eq_false_iff (s : State) : s.irq = false ↔ s.lct.ie = false ∨ s.lct.rxv = false := by
  rw [State.irq_eq, Bool.and_eq_false_iff]

/-- The request rises with RXV, at the pulse that completes a word, or with IE, at a write of IE = 1 (R202). -/
theorem irq_rises {i : Instr} {s t : State} (h : exec i s = .next t) (hs : s.irq = false) (ht : t.irq = true) :
    (∃ si, i = .pulse si ∧ s.lct.en = true ∧ s.lct.bitcnt.toNat = s.lct.width - 1 ∧ s.lct.ie = true) ∨
      (∃ v, i = .wrLctCtrl v ∧ v.getLsbD 2 = true ∧ s.lct.rxv = true) := by
  obtain ⟨hie, hrxv⟩ := t.irq_eq_true_iff.mp ht
  rw [lct_of_exec h] at hie hrxv
  cases hs' : s.lct.rxv with
  | false =>
    obtain ⟨si, rfl, hen, hlast⟩ := rxv_rises hs' hrxv
    exact .inl ⟨si, rfl, hen, hlast, (lctAfter_ie (fun _ => Instr.noConfusion) s).symm.trans hie⟩
  | true =>
    have hdown : s.lct.ie ≠ true := fun hup => by simp [hup, hs'] at hs
    obtain ⟨v, rfl, hv⟩ := ie_moves hdown hie
    exact .inr ⟨v, rfl, hv, rfl⟩

/-- The request falls with RXV or with IE, and IE falls only at a write of IE = 0 (R202). -/
theorem irq_falls {i : Instr} {s t : State} (h : exec i s = .next t) (hs : s.irq = true) (ht : t.irq = false) :
    t.lct.rxv = false ∨ ∃ v, i = .wrLctCtrl v ∧ v.getLsbD 2 = false := by
  obtain ⟨hie, _⟩ := s.irq_eq_true_iff.mp hs
  refine (t.irq_eq_false_iff.mp ht).symm.imp_right fun hdown => ?_
  exact ie_moves (by simp [hie]) (lct_of_exec h ▸ hdown)

/-- Each acknowledgement takes the request down, whatever it was: four of them leave RXV = 0 (R101, R103, R104, R105),
the write of IE = 0 leaves IE = 0 (R103). -/
theorem irq_false_of_acknowledged {i : Instr} {s t : State} (h : exec i s = .next t)
    (hack : i = .rdLctRxdata ∨ (∃ v, i = .wrLctClear v) ∨ (∃ v, i = .wrLctReset v) ∨
      (∃ v, i = .wrLctCtrl v ∧ (v.getLsbD 1 ≠ s.lct.w32 ∨ v.getLsbD 2 = false))) : t.irq = false := by
  rw [State.irq_eq_false_iff, lct_of_exec h]
  obtain rfl | ⟨v, rfl⟩ | ⟨v, rfl⟩ | ⟨v, rfl, hwidth | hie⟩ := hack
  · exact .inr rfl
  · exact .inr rfl
  · exact .inr rfl
  · obtain ⟨hrxv, _⟩ := lctAfter_rx_of_clearsBuffers (i := .wrLctCtrl v) (s := s) (bne_iff_ne.mpr hwidth)
    exact .inr hrxv
  · exact .inl ((Lct.writeCtrl_ie s.lct v).trans hie)

/-! ### The statements -/

/-- Settles O34: the level by definition, its two moves, and bit 2 of the word a read of LCT_STATUS answers. -/
theorem interruptRequestIsALevel : Obligations.InterruptRequestIsALevel := by
  refine ⟨State.irq_eq, fun _ _ _ => irq_rises, fun _ _ _ => irq_falls, fun s => ?_⟩
  obtain ⟨_, _, hirq, _⟩ := statusWord_fields s.lct s.irq
  exact ⟨statusWord s.lct s.irq, exec_rdLctStatus s, hirq⟩

/-- Settles O35: a request that falls does so with RXV, whose falls are the consuming read and the three drops, or at a
write of IE = 0; and each of these takes it down. -/
theorem requestStaysUntilAcknowledged : Obligations.RequestStaysUntilAcknowledged := by
  refine fun i s t hs h => ⟨fun ht => ?_, irq_false_of_acknowledged h⟩
  obtain ⟨_, hrxv⟩ := s.irq_eq_true_iff.mp hs
  obtain hfall | ⟨v, rfl, hie⟩ := irq_falls h hs ht
  · obtain hread | hreset | hclear | ⟨v, rfl, hwidth⟩ := rxv_falls hrxv (lct_of_exec h ▸ hfall)
    · exact .inl hread
    · exact .inr (.inr (.inl hreset))
    · exact .inr (.inl hclear)
    · exact .inr (.inr (.inr ⟨v, rfl, .inl hwidth⟩))
  · exact .inr (.inr (.inr ⟨v, rfl, .inr hie⟩))

end Sys2Proof.Machine

/-! PROOF. The statement of 70_reset_and_hazards.md: what the step of the power-on reset event does (R220). -/

namespace Sys2Proof.Machine

/-- The whole state after the power-on reset: both sub-blocks as in the reset state (R220), nothing answered, and of the
state before it only the draw counter and the events to come (log 25). -/
theorem powerOnReset_eq (s : State) :
    powerOnReset s =
      { lct := State.reset.lct, cas := State.reset.cas, out := .nothing, draws := s.draws, inputs := s.inputs } := rfl

/-- Settles O2: the step takes the power-on event from the events to come and is the power-on reset. -/
theorem powerOnEventResetsBothSubBlocks : Obligations.PowerOnEventResetsBothSubBlocks := by
  intro s rest
  have hstep : step { s with inputs := .powerOn :: rest } = .next (powerOnReset (s.setInputs rest)) :=
    step_powerOn rfl rfl
  rw [hstep, powerOnReset_eq, State.setInputs_draws, State.setInputs_inputs]

end Sys2Proof.Machine
